-- ==== Sys2Proof/Word.lean ====
section
/-! DEFINITION. The two plain word types of the model: a byte, and the 64-bit container in which every XLEN-bit
register of the machine other than the two register files is kept (XLEN is 32 or 64, rule R6). -/

namespace Sys2Proof

/-- The smallest addressable unit of memory and of a register file (rules R26, R52). -/
abbrev Byte := BitVec 8

/-- A container for an XLEN-bit value: at XLEN = 32 only its low 32 bits are ever read. -/
abbrev Word := BitVec 64

end Sys2Proof
end

