-- ==== Sys2Proof/Config.lean ====
section
/-! DEFINITION. The implementation parameters of rule R6, as plain data. None of their values is fixed by the
source; a machine carries one `Config` in its state, no step changes it, and every statement about every state is a
statement about every choice of the parameters. `Config.atReset` is the choice `State.reset` carries (log entry 2). -/

namespace Sys2Proof

/-- Parameter `XLEN` (rules R6, D1): 32 or 64; 128 is refused by the scope of the spec (rule R5). -/
inductive XLen where
  | rv32 | rv64
  deriving DecidableEq, Repr

/-- XLEN in bits. -/
def XLen.bits : XLen → Nat
  | .rv32 => 32
  | .rv64 => 64

/-- Parameter `FLEN` (rules R6, R7): absent (0), 32, 64 or 128 bits. -/
inductive FLen where
  | absent | f32 | f64 | f128
  deriving DecidableEq, Repr

/-- FLEN in bits. -/
def FLen.bits : FLen → Nat
  | .absent => 0
  | .f32 => 32
  | .f64 => 64
  | .f128 => 128

/-- Parameter `MISALIGNED` (rules R6, R55). -/
inductive Misaligned where
  | trap | support
  deriving DecidableEq, Repr

/-- Parameter `LDST_CLASS` (rules R6, R84, R162). -/
inductive LdstClass where
  | vectorData | literal
  deriving DecidableEq, Repr

/-- Parameter `SETVL_STEP3` (rules R6, R314): the value VL takes in step 3 of `setvl`. -/
inductive SetvlStep3 where
  | xlen | imm
  deriving DecidableEq, Repr

/-- Parameter `TRAP_MODEL` (rules R6, R381): what follows a `raise`. -/
inductive TrapModel where
  | stop | mmode
  deriving DecidableEq, Repr

/-- One range of addresses `base .. base + size - 1` with the kinds of access it admits: the plain-data form of
the parameter `mem_admit` (rules R6, R58) is a list of these. -/
structure Region where
  base  : Nat
  size  : Nat
  load  : Bool
  store : Bool
  fetch : Bool
  deriving DecidableEq, Repr

/-- One range of addresses that holds program text (rule R64). -/
structure TextRange where
  base : Nat
  size : Nat
  deriving DecidableEq, Repr

/-- One piece of an operand field: the `bits` bits of the instruction word from bit `pos` on are the bits of the operand
from bit `lo` on. -/
structure FieldPiece where
  pos  : Nat
  bits : Nat
  lo   : Nat
  deriving DecidableEq, Repr

/-- Parameter `SETVL_ENCODING` (rule R315): the length in bytes, a mask and the pattern under it, and the positions of
rd, rs1 (five bits each, D19) and of the unsigned immediate. Each field is a list of pieces, so a field may stand in one
place or be split (an S-format immediate); word bits outside the mask and the fields are free. Rule R315 leaves the
positions open: this form of the parameter is the model's choice (DESIGN CHOICE, safe; log entry 3). -/
structure SetvlEncoding where
  len     : Nat
  mask    : Nat
  pattern : Nat
  rd      : List FieldPiece
  rs1     : List FieldPiece
  imm     : List FieldPiece
  deriving DecidableEq, Repr

/-- Parameter FP numerics record (rules R6, R261): the record's intended instance, or one of the records of
`Config.readerNumerics`, of which nothing is known (`Machine/FpNumerics.lean`, log entry 13). -/
inductive FpChoice where
  | intended
  | reader (n : Nat)
  deriving DecidableEq, Repr

/-- What EnvironmentCall records: 0, as the table of rule R383 says, or the pc, as rule R361 writes. The two rules differ
and the spec's list of conflicts does not rule, so the model keeps both readings as a parameter of its own (log entry
10). -/
inductive EcallInfo where
  | zero | pc
  deriving DecidableEq, Repr

/-- The parameters of rule R6, the program text of rule R64, and the model's own `ecallInfo`. NREGS is the constant 128
(rules R6, R20, R24). -/
structure Config where
  xlen       : XLen
  flen       : FLen
  hasM       : Bool
  hasC       : Bool
  misaligned : Misaligned
  ldstClass  : LdstClass
  setvlStep3 : SetvlStep3
  trapModel  : TrapModel
  setvlEnc   : SetvlEncoding
  fpChoice   : FpChoice
  ecallInfo  : EcallInfo
  csrVl      : BitVec 12
  csrVstart  : BitVec 12
  backed     : List Region
  text       : List TextRange
  resetPc    : Word
  deriving DecidableEq, Repr

/-- XLEN in bits. -/
abbrev Config.xbits (c : Config) : Nat := c.xlen.bits

/-- FLEN in bits. -/
abbrev Config.fbits (c : Config) : Nat := c.flen.bits

/-- The pattern of `setvl` that `Config.atReset` carries: DESIGN CHOICE, unsafe (log entry 3). The source gives no
encoding of `setvl` (rule R315); this is an I-type word of the base ISA's custom-0 opcode, chosen by the model. -/
def SetvlEncoding.custom0 : SetvlEncoding :=
  { len := 4, mask := 0x0000707F, pattern := 0x0000000B, rd := [{ pos := 7, bits := 5, lo := 0 }],
    rs1 := [{ pos := 15, bits := 5, lo := 0 }], imm := [{ pos := 20, bits := 12, lo := 0 }] }

/-- The parameters of the machine at reset: DESIGN CHOICE, unsafe (log entries 2, 3, 10 and 13). -/
def Config.atReset : Config :=
  { xlen := .rv64, flen := .f128, hasM := true, hasC := false, misaligned := .trap, ldstClass := .vectorData,
    setvlStep3 := .xlen, trapModel := .mmode, setvlEnc := SetvlEncoding.custom0, fpChoice := .intended,
    ecallInfo := .zero, csrVl := 0x800#12, csrVstart := 0x801#12,
    backed := [{ base := 0, size := 2 ^ 64, load := true, store := true, fetch := true }],
    text := [], resetPc := 0#64 }

end Sys2Proof
end

