-- ==== Sys2Proof/Syntax.lean ====
section
/-! DEFINITION. The syntax of the machine: the operand fields of the 32-bit formats (rule R331) and of the eight 48-bit
formats (rules R74 to R81), and `Instr`, one constructor for each row of spec/opcode_table.json. -/

namespace Sys2Proof

/-- The FP format `fmt` (rule R109). -/
inductive Fmt where
  | s | d | h | q
  deriving DecidableEq, Repr

/-- The rounding modes of rule R110. -/
inductive RoundMode where
  | rne | rtz | rdn | rup | rmm
  deriving DecidableEq, Repr

/-- An `rm` field that is a rounding mode (rules R110, R265): codes 000 to 100, or 111 (use `fcsr.frm`). -/
inductive Rm where
  | fixed (m : RoundMode)
  | dyn
  deriving DecidableEq, Repr

/-- The predicate registers (rule R88). -/
inductive PredReg where
  | x9 | x10 | x11
  deriving DecidableEq, Repr

/-- The pred field (rule R88): unpredicated, or executed where the bit of the register equals `sense`. -/
inductive Pred where
  | always
  | on (r : PredReg) (sense : Bool)
  deriving DecidableEq, Repr

/-- Sub-vector length (rule R86). -/
inductive SvLen where
  | one | two | three | four
  deriving DecidableEq, Repr

/-- Integer element type (rule R89): 8, 16, 32 or XLEN bits. -/
inductive IType where
  | b | h | w | xl
  deriving DecidableEq, Repr

/-- Load/store kind (rule R85): contiguous; gather/scatter; immediate stride of `k + 2` sub-vector sizes; register
stride in `x[8 + k]`. -/
inductive Lsk where
  | c
  | x
  | si (k : Fin 6)
  | s (k : Fin 8)
  deriving DecidableEq, Repr

/-- The vtp5 field (rule R92). -/
structure Vtp where
  pred  : Pred
  svlen : SvLen
  deriving DecidableEq, Repr

/-- The vitp6 field (rule R93); only x9 can predicate (`WellFormed.lean`). -/
structure Vitp where
  itype : IType
  pred  : Pred
  svlen : SvLen
  deriving DecidableEq, Repr

/-- Operands of P48LD and P48ST (rules R74, R75): `data` is rd of a load and rs2 of a store, `base` is rs1. -/
structure MemOps where
  data : BitVec 6
  base : BitVec 6
  imm  : BitVec 12
  lsk  : Lsk
  vtp  : Vtp
  deriving DecidableEq, Repr

/-- Operands of P48R (rule R76). -/
structure ROps where
  rd   : BitVec 6
  rs1  : BitVec 6
  rs2  : BitVec 6
  vs1  : Bool
  vs2  : Bool
  vitp : Vitp
  deriving DecidableEq, Repr

/-- Operands of P48I (rule R77). -/
structure IOps where
  rd   : BitVec 6
  rs1  : BitVec 6
  imm  : BitVec 12
  vd   : Bool
  vs1  : Bool
  vitp : Vitp
  deriving DecidableEq, Repr

/-- Operands of the shift-immediate instructions of P48I (rules R95, R233). -/
structure ShOps where
  rd    : BitVec 6
  rs1   : BitVec 6
  shamt : BitVec 6
  vd    : Bool
  vs1   : Bool
  vitp  : Vitp
  deriving DecidableEq, Repr

/-- Operands of P48U (rule R78). -/
structure UOps where
  rd   : BitVec 6
  imm  : BitVec 20
  vd   : Bool
  vitp : Vitp
  deriving DecidableEq, Repr

/-- Operands of P48FR (rule R79) but for `rm`. -/
structure FrOps where
  fmt : Fmt
  rd  : BitVec 6
  rs1 : BitVec 6
  rs2 : BitVec 6
  vs1 : Bool
  vs2 : Bool
  vtp : Vtp
  deriving DecidableEq, Repr

/-- Operands of P48FI (rule R80) but for `rm` and `funct5`. -/
structure FiOps where
  fmt : Fmt
  rd  : BitVec 6
  rs1 : BitVec 6
  vd  : Bool
  vs1 : Bool
  vtp : Vtp
  deriving DecidableEq, Repr

/-- Operands of P48FR4 (rule R81) but for `rm`. -/
structure Fr4Ops where
  fmt : Fmt
  rd  : BitVec 6
  rs1 : BitVec 6
  rs2 : BitVec 6
  rs3 : BitVec 6
  vs2 : Bool
  vs3 : Bool
  vtp : Vtp
  deriving DecidableEq, Repr

/-- The immediate of `setvl`: its unsigned value (rule R312), and the whole word in which it stands, because the encoding is
open and may leave bits of the word free while IllegalInstruction records every one (rules R311, R315, R386; log entry
9). -/
structure SetvlImm where
  value : Nat
  insn  : Nat
  deriving DecidableEq, Repr

/-- The instructions of the machine, one constructor for each row of spec/opcode_table.json, in the table's order.
B-immediates hold imm[12:1] and J-immediates imm[20:1] (rule R332). -/
inductive Instr where
  /-- `sv.lb`, rule R167. -/
  | svLb (o : MemOps)
  /-- `sv.lh`, rule R168. -/
  | svLh (o : MemOps)
  /-- `sv.lw`, rule R169. -/
  | svLw (o : MemOps)
  /-- `sv.ld`, rule R170. -/
  | svLd (o : MemOps)
  /-- `sv.lbu`, rule R171. -/
  | svLbu (o : MemOps)
  /-- `sv.lhu`, rule R172. -/
  | svLhu (o : MemOps)
  /-- `sv.lwu`, rule R173. -/
  | svLwu (o : MemOps)
  /-- `sv.flh`, rule R174. -/
  | svFlh (o : MemOps)
  /-- `sv.flw`, rule R175. -/
  | svFlw (o : MemOps)
  /-- `sv.fld`, rule R176. -/
  | svFld (o : MemOps)
  /-- `sv.flq`, rule R177. -/
  | svFlq (o : MemOps)
  /-- `sv.sb`, rule R178. -/
  | svSb (o : MemOps)
  /-- `sv.sh`, rule R179. -/
  | svSh (o : MemOps)
  /-- `sv.sw`, rule R180. -/
  | svSw (o : MemOps)
  /-- `sv.sd`, rule R181. -/
  | svSd (o : MemOps)
  /-- `sv.fsh`, rule R182. -/
  | svFsh (o : MemOps)
  /-- `sv.fsw`, rule R183. -/
  | svFsw (o : MemOps)
  /-- `sv.fsd`, rule R184. -/
  | svFsd (o : MemOps)
  /-- `sv.fsq`, rule R185. -/
  | svFsq (o : MemOps)
  /-- `sv.add`, rule R196. -/
  | svAdd (o : ROps)
  /-- `sv.sub`, rule R197. -/
  | svSub (o : ROps)
  /-- `sv.sll`, rule R198. -/
  | svSll (o : ROps)
  /-- `sv.slt`, rule R199. -/
  | svSlt (o : ROps)
  /-- `sv.sltu`, rule R200. -/
  | svSltu (o : ROps)
  /-- `sv.xor`, rule R201. -/
  | svXor (o : ROps)
  /-- `sv.srl`, rule R202. -/
  | svSrl (o : ROps)
  /-- `sv.sra`, rule R203. -/
  | svSra (o : ROps)
  /-- `sv.or`, rule R204. -/
  | svOr (o : ROps)
  /-- `sv.and`, rule R205. -/
  | svAnd (o : ROps)
  /-- `sv.mul`, rule R206. -/
  | svMul (o : ROps)
  /-- `sv.mulh`, rule R207. -/
  | svMulh (o : ROps)
  /-- `sv.mulhsu`, rule R208. -/
  | svMulhsu (o : ROps)
  /-- `sv.mulhu`, rule R209. -/
  | svMulhu (o : ROps)
  /-- `sv.div`, rule R210. -/
  | svDiv (o : ROps)
  /-- `sv.divu`, rule R211. -/
  | svDivu (o : ROps)
  /-- `sv.rem`, rule R212. -/
  | svRem (o : ROps)
  /-- `sv.remu`, rule R213. -/
  | svRemu (o : ROps)
  /-- `sv.addw`, rule R214. -/
  | svAddw (o : ROps)
  /-- `sv.subw`, rule R215. -/
  | svSubw (o : ROps)
  /-- `sv.sllw`, rule R216. -/
  | svSllw (o : ROps)
  /-- `sv.srlw`, rule R217. -/
  | svSrlw (o : ROps)
  /-- `sv.sraw`, rule R218. -/
  | svSraw (o : ROps)
  /-- `sv.mulw`, rule R219. -/
  | svMulw (o : ROps)
  /-- `sv.divw`, rule R220. -/
  | svDivw (o : ROps)
  /-- `sv.divuw`, rule R221. -/
  | svDivuw (o : ROps)
  /-- `sv.remw`, rule R222. -/
  | svRemw (o : ROps)
  /-- `sv.remuw`, rule R223. -/
  | svRemuw (o : ROps)
  /-- `sv.addi`, rule R231. -/
  | svAddi (o : IOps)
  /-- `sv.slti`, rule R235. -/
  | svSlti (o : IOps)
  /-- `sv.sltiu`, rule R236. -/
  | svSltiu (o : IOps)
  /-- `sv.xori`, rule R237. -/
  | svXori (o : IOps)
  /-- `sv.ori`, rule R238. -/
  | svOri (o : IOps)
  /-- `sv.andi`, rule R239. -/
  | svAndi (o : IOps)
  /-- `sv.slli`, rule R240. -/
  | svSlli (o : ShOps)
  /-- `sv.srli`, rule R241. -/
  | svSrli (o : ShOps)
  /-- `sv.srai`, rule R242. -/
  | svSrai (o : ShOps)
  /-- `sv.addiw`, rule R243. -/
  | svAddiw (o : IOps)
  /-- `sv.slliw`, rule R244. -/
  | svSlliw (o : ShOps)
  /-- `sv.srliw`, rule R245. -/
  | svSrliw (o : ShOps)
  /-- `sv.sraiw`, rule R246. -/
  | svSraiw (o : ShOps)
  /-- `sv.lui`, rule R248. -/
  | svLui (o : UOps)
  /-- `sv.auipc`, rule R249. -/
  | svAuipc (o : UOps)
  /-- `sv.fadd.fmt`, rule R268. -/
  | svFaddFmt (rm : Rm) (o : FrOps)
  /-- `sv.fsub.fmt`, rule R269. -/
  | svFsubFmt (rm : Rm) (o : FrOps)
  /-- `sv.fmul.fmt`, rule R270. -/
  | svFmulFmt (rm : Rm) (o : FrOps)
  /-- `sv.fdiv.fmt`, rule R271. -/
  | svFdivFmt (rm : Rm) (o : FrOps)
  /-- `sv.fsgnj.fmt`, rule R272. -/
  | svFsgnjFmt (o : FrOps)
  /-- `sv.fsgnjn.fmt`, rule R273. -/
  | svFsgnjnFmt (o : FrOps)
  /-- `sv.fsgnjx.fmt`, rule R274. -/
  | svFsgnjxFmt (o : FrOps)
  /-- `sv.fmin.fmt`, rule R275. -/
  | svFminFmt (o : FrOps)
  /-- `sv.fmax.fmt`, rule R276. -/
  | svFmaxFmt (o : FrOps)
  /-- `sv.feq.fmt`, rule R277. -/
  | svFeqFmt (o : FrOps)
  /-- `sv.flt.fmt`, rule R278. -/
  | svFltFmt (o : FrOps)
  /-- `sv.fle.fmt`, rule R279. -/
  | svFleFmt (o : FrOps)
  /-- `sv.fsqrt.fmt`, rule R280. -/
  | svFsqrtFmt (rm : Rm) (o : FiOps)
  /-- `sv.fcvt.w.fmt`, rule R281. -/
  | svFcvtWFmt (rm : Rm) (o : FiOps)
  /-- `sv.fcvt.wu.fmt`, rule R282. -/
  | svFcvtWuFmt (rm : Rm) (o : FiOps)
  /-- `sv.fcvt.l.fmt`, rule R283. -/
  | svFcvtLFmt (rm : Rm) (o : FiOps)
  /-- `sv.fcvt.lu.fmt`, rule R284. -/
  | svFcvtLuFmt (rm : Rm) (o : FiOps)
  /-- `sv.fcvt.fmt.w`, rule R285. -/
  | svFcvtFmtW (rm : Rm) (o : FiOps)
  /-- `sv.fcvt.fmt.wu`, rule R286. -/
  | svFcvtFmtWu (rm : Rm) (o : FiOps)
  /-- `sv.fcvt.fmt.l`, rule R287. -/
  | svFcvtFmtL (rm : Rm) (o : FiOps)
  /-- `sv.fcvt.fmt.lu`, rule R288. -/
  | svFcvtFmtLu (rm : Rm) (o : FiOps)
  /-- `sv.fmv.x.fmt`, rule R290. -/
  | svFmvXFmt (o : FiOps)
  /-- `sv.fmv.fmt.x`, rule R291. -/
  | svFmvFmtX (o : FiOps)
  /-- `sv.fclass.fmt`, rule R293. -/
  | svFclassFmt (o : FiOps)
  /-- `sv.fcvt.fmt.fmt`, rule R289. -/
  | svFcvtFmtFmt (src : Fmt) (rm : Rm) (o : FiOps)
  /-- `sv.fmadd.fmt`, rule R295. -/
  | svFmaddFmt (rm : Rm) (o : Fr4Ops)
  /-- `sv.fmsub.fmt`, rule R296. -/
  | svFmsubFmt (rm : Rm) (o : Fr4Ops)
  /-- `sv.fnmsub.fmt`, rule R297. -/
  | svFnmsubFmt (rm : Rm) (o : Fr4Ops)
  /-- `sv.fnmadd.fmt`, rule R298. -/
  | svFnmaddFmt (rm : Rm) (o : Fr4Ops)
  /-- `setvl`, rule R311. -/
  | setvl (rd rs1 : BitVec 5) (imm : SetvlImm)
  /-- `lui`, rule R501. -/
  | lui (rd : BitVec 5) (imm : BitVec 20)
  /-- `auipc`, rule R502. -/
  | auipc (rd : BitVec 5) (imm : BitVec 20)
  /-- `addi`, rule R503. -/
  | addi (rd rs1 : BitVec 5) (imm : BitVec 12)
  /-- `slti`, rule R504. -/
  | slti (rd rs1 : BitVec 5) (imm : BitVec 12)
  /-- `sltiu`, rule R505. -/
  | sltiu (rd rs1 : BitVec 5) (imm : BitVec 12)
  /-- `xori`, rule R506. -/
  | xori (rd rs1 : BitVec 5) (imm : BitVec 12)
  /-- `ori`, rule R507. -/
  | ori (rd rs1 : BitVec 5) (imm : BitVec 12)
  /-- `andi`, rule R508. -/
  | andi (rd rs1 : BitVec 5) (imm : BitVec 12)
  /-- `slli`, rule R509. -/
  | slli (rd rs1 : BitVec 5) (shamt : BitVec 6)
  /-- `srli`, rule R510. -/
  | srli (rd rs1 : BitVec 5) (shamt : BitVec 6)
  /-- `srai`, rule R511. -/
  | srai (rd rs1 : BitVec 5) (shamt : BitVec 6)
  /-- `add`, rule R512. -/
  | add (rd rs1 rs2 : BitVec 5)
  /-- `sub`, rule R513. -/
  | sub (rd rs1 rs2 : BitVec 5)
  /-- `sll`, rule R514. -/
  | sll (rd rs1 rs2 : BitVec 5)
  /-- `slt`, rule R515. -/
  | slt (rd rs1 rs2 : BitVec 5)
  /-- `sltu`, rule R516. -/
  | sltu (rd rs1 rs2 : BitVec 5)
  /-- `xor`, rule R517. -/
  | xor (rd rs1 rs2 : BitVec 5)
  /-- `srl`, rule R518. -/
  | srl (rd rs1 rs2 : BitVec 5)
  /-- `sra`, rule R519. -/
  | sra (rd rs1 rs2 : BitVec 5)
  /-- `or`, rule R520. -/
  | or (rd rs1 rs2 : BitVec 5)
  /-- `and`, rule R521. -/
  | and (rd rs1 rs2 : BitVec 5)
  /-- `addiw`, rule R522. -/
  | addiw (rd rs1 : BitVec 5) (imm : BitVec 12)
  /-- `slliw`, rule R523. -/
  | slliw (rd rs1 shamt : BitVec 5)
  /-- `srliw`, rule R524. -/
  | srliw (rd rs1 shamt : BitVec 5)
  /-- `sraiw`, rule R525. -/
  | sraiw (rd rs1 shamt : BitVec 5)
  /-- `addw`, rule R526. -/
  | addw (rd rs1 rs2 : BitVec 5)
  /-- `subw`, rule R527. -/
  | subw (rd rs1 rs2 : BitVec 5)
  /-- `sllw`, rule R528. -/
  | sllw (rd rs1 rs2 : BitVec 5)
  /-- `srlw`, rule R529. -/
  | srlw (rd rs1 rs2 : BitVec 5)
  /-- `sraw`, rule R530. -/
  | sraw (rd rs1 rs2 : BitVec 5)
  /-- `mul`, rule R531. -/
  | mul (rd rs1 rs2 : BitVec 5)
  /-- `mulh`, rule R532. -/
  | mulh (rd rs1 rs2 : BitVec 5)
  /-- `mulhsu`, rule R533. -/
  | mulhsu (rd rs1 rs2 : BitVec 5)
  /-- `mulhu`, rule R534. -/
  | mulhu (rd rs1 rs2 : BitVec 5)
  /-- `div`, rule R535. -/
  | div (rd rs1 rs2 : BitVec 5)
  /-- `divu`, rule R536. -/
  | divu (rd rs1 rs2 : BitVec 5)
  /-- `rem`, rule R537. -/
  | rem (rd rs1 rs2 : BitVec 5)
  /-- `remu`, rule R538. -/
  | remu (rd rs1 rs2 : BitVec 5)
  /-- `mulw`, rule R539. -/
  | mulw (rd rs1 rs2 : BitVec 5)
  /-- `divw`, rule R540. -/
  | divw (rd rs1 rs2 : BitVec 5)
  /-- `divuw`, rule R541. -/
  | divuw (rd rs1 rs2 : BitVec 5)
  /-- `remw`, rule R542. -/
  | remw (rd rs1 rs2 : BitVec 5)
  /-- `remuw`, rule R543. -/
  | remuw (rd rs1 rs2 : BitVec 5)
  /-- `lb`, rule R545. -/
  | lb (rd rs1 : BitVec 5) (imm : BitVec 12)
  /-- `lh`, rule R546. -/
  | lh (rd rs1 : BitVec 5) (imm : BitVec 12)
  /-- `lw`, rule R547. -/
  | lw (rd rs1 : BitVec 5) (imm : BitVec 12)
  /-- `ld`, rule R548. -/
  | ld (rd rs1 : BitVec 5) (imm : BitVec 12)
  /-- `lbu`, rule R549. -/
  | lbu (rd rs1 : BitVec 5) (imm : BitVec 12)
  /-- `lhu`, rule R550. -/
  | lhu (rd rs1 : BitVec 5) (imm : BitVec 12)
  /-- `lwu`, rule R551. -/
  | lwu (rd rs1 : BitVec 5) (imm : BitVec 12)
  /-- `sb`, rule R552. -/
  | sb (rs2 rs1 : BitVec 5) (imm : BitVec 12)
  /-- `sh`, rule R553. -/
  | sh (rs2 rs1 : BitVec 5) (imm : BitVec 12)
  /-- `sw`, rule R554. -/
  | sw (rs2 rs1 : BitVec 5) (imm : BitVec 12)
  /-- `sd`, rule R555. -/
  | sd (rs2 rs1 : BitVec 5) (imm : BitVec 12)
  /-- `fadd.fmt`, rule R561. -/
  | faddFmt (fmt : Fmt) (rm : Rm) (rd rs1 rs2 : BitVec 5)
  /-- `fsub.fmt`, rule R562. -/
  | fsubFmt (fmt : Fmt) (rm : Rm) (rd rs1 rs2 : BitVec 5)
  /-- `fmul.fmt`, rule R563. -/
  | fmulFmt (fmt : Fmt) (rm : Rm) (rd rs1 rs2 : BitVec 5)
  /-- `fdiv.fmt`, rule R564. -/
  | fdivFmt (fmt : Fmt) (rm : Rm) (rd rs1 rs2 : BitVec 5)
  /-- `fsqrt.fmt`, rule R565. -/
  | fsqrtFmt (fmt : Fmt) (rm : Rm) (rd rs1 : BitVec 5)
  /-- `fsgnj.fmt`, rule R566. -/
  | fsgnjFmt (fmt : Fmt) (rd rs1 rs2 : BitVec 5)
  /-- `fsgnjn.fmt`, rule R567. -/
  | fsgnjnFmt (fmt : Fmt) (rd rs1 rs2 : BitVec 5)
  /-- `fsgnjx.fmt`, rule R568. -/
  | fsgnjxFmt (fmt : Fmt) (rd rs1 rs2 : BitVec 5)
  /-- `fmin.fmt`, rule R569. -/
  | fminFmt (fmt : Fmt) (rd rs1 rs2 : BitVec 5)
  /-- `fmax.fmt`, rule R570. -/
  | fmaxFmt (fmt : Fmt) (rd rs1 rs2 : BitVec 5)
  /-- `feq.fmt`, rule R571. -/
  | feqFmt (fmt : Fmt) (rd rs1 rs2 : BitVec 5)
  /-- `flt.fmt`, rule R572. -/
  | fltFmt (fmt : Fmt) (rd rs1 rs2 : BitVec 5)
  /-- `fle.fmt`, rule R573. -/
  | fleFmt (fmt : Fmt) (rd rs1 rs2 : BitVec 5)
  /-- `fcvt.w.fmt`, rule R574. -/
  | fcvtWFmt (fmt : Fmt) (rm : Rm) (rd rs1 : BitVec 5)
  /-- `fcvt.wu.fmt`, rule R575. -/
  | fcvtWuFmt (fmt : Fmt) (rm : Rm) (rd rs1 : BitVec 5)
  /-- `fcvt.l.fmt`, rule R576. -/
  | fcvtLFmt (fmt : Fmt) (rm : Rm) (rd rs1 : BitVec 5)
  /-- `fcvt.lu.fmt`, rule R577. -/
  | fcvtLuFmt (fmt : Fmt) (rm : Rm) (rd rs1 : BitVec 5)
  /-- `fcvt.fmt.w`, rule R578. -/
  | fcvtFmtW (fmt : Fmt) (rm : Rm) (rd rs1 : BitVec 5)
  /-- `fcvt.fmt.wu`, rule R579. -/
  | fcvtFmtWu (fmt : Fmt) (rm : Rm) (rd rs1 : BitVec 5)
  /-- `fcvt.fmt.l`, rule R580. -/
  | fcvtFmtL (fmt : Fmt) (rm : Rm) (rd rs1 : BitVec 5)
  /-- `fcvt.fmt.lu`, rule R581. -/
  | fcvtFmtLu (fmt : Fmt) (rm : Rm) (rd rs1 : BitVec 5)
  /-- `fcvt.fmt.fmt`, rule R582. -/
  | fcvtFmtFmt (fmt src : Fmt) (rm : Rm) (rd rs1 : BitVec 5)
  /-- `fmv.x.fmt`, rule R583. -/
  | fmvXFmt (fmt : Fmt) (rd rs1 : BitVec 5)
  /-- `fmv.fmt.x`, rule R584. -/
  | fmvFmtX (fmt : Fmt) (rd rs1 : BitVec 5)
  /-- `fclass.fmt`, rule R585. -/
  | fclassFmt (fmt : Fmt) (rd rs1 : BitVec 5)
  /-- `fmadd.fmt`, rule R586. -/
  | fmaddFmt (fmt : Fmt) (rm : Rm) (rd rs1 rs2 rs3 : BitVec 5)
  /-- `fmsub.fmt`, rule R587. -/
  | fmsubFmt (fmt : Fmt) (rm : Rm) (rd rs1 rs2 rs3 : BitVec 5)
  /-- `fnmsub.fmt`, rule R588. -/
  | fnmsubFmt (fmt : Fmt) (rm : Rm) (rd rs1 rs2 rs3 : BitVec 5)
  /-- `fnmadd.fmt`, rule R589. -/
  | fnmaddFmt (fmt : Fmt) (rm : Rm) (rd rs1 rs2 rs3 : BitVec 5)
  /-- `flw`, rule R590. -/
  | flw (rd rs1 : BitVec 5) (imm : BitVec 12)
  /-- `fld`, rule R591. -/
  | fld (rd rs1 : BitVec 5) (imm : BitVec 12)
  /-- `flq`, rule R592. -/
  | flq (rd rs1 : BitVec 5) (imm : BitVec 12)
  /-- `fsw`, rule R593. -/
  | fsw (rs2 rs1 : BitVec 5) (imm : BitVec 12)
  /-- `fsd`, rule R594. -/
  | fsd (rs2 rs1 : BitVec 5) (imm : BitVec 12)
  /-- `fsq`, rule R595. -/
  | fsq (rs2 rs1 : BitVec 5) (imm : BitVec 12)
  /-- `jal`, rule R340. -/
  | jal (rd : BitVec 5) (imm : BitVec 20)
  /-- `jalr`, rule R341. -/
  | jalr (rd rs1 : BitVec 5) (imm : BitVec 12)
  /-- `beq`, rule R342. -/
  | beq (rs1 rs2 : BitVec 5) (imm : BitVec 12)
  /-- `bne`, rule R343. -/
  | bne (rs1 rs2 : BitVec 5) (imm : BitVec 12)
  /-- `blt`, rule R344. -/
  | blt (rs1 rs2 : BitVec 5) (imm : BitVec 12)
  /-- `bge`, rule R345. -/
  | bge (rs1 rs2 : BitVec 5) (imm : BitVec 12)
  /-- `bltu`, rule R346. -/
  | bltu (rs1 rs2 : BitVec 5) (imm : BitVec 12)
  /-- `bgeu`, rule R347. -/
  | bgeu (rs1 rs2 : BitVec 5) (imm : BitVec 12)
  /-- `fence`, rule R366. -/
  | fence (rd rs1 : BitVec 5) (imm : BitVec 12)
  /-- `fence.i`, rule R367. -/
  | fenceI (rd rs1 : BitVec 5) (imm : BitVec 12)
  /-- `ecall`, rule R361. -/
  | ecall
  /-- `ebreak`, rule R362. -/
  | ebreak
  /-- `csrrw`, rule R369. -/
  | csrrw (rd rs1 : BitVec 5) (csr : BitVec 12)
  /-- `csrrs`, rule R370. -/
  | csrrs (rd rs1 : BitVec 5) (csr : BitVec 12)
  /-- `csrrc`, rule R371. -/
  | csrrc (rd rs1 : BitVec 5) (csr : BitVec 12)
  /-- `csrrwi`, rule R372. -/
  | csrrwi (rd uimm : BitVec 5) (csr : BitVec 12)
  /-- `csrrsi`, rule R373. -/
  | csrrsi (rd uimm : BitVec 5) (csr : BitVec 12)
  /-- `csrrci`, rule R374. -/
  | csrrci (rd uimm : BitVec 5) (csr : BitVec 12)
  /-- `flh`, rule R123. -/
  | flh (rd rs1 : BitVec 5) (imm : BitVec 12)
  /-- `fsh`, rule R124. -/
  | fsh (rs2 rs1 : BitVec 5) (imm : BitVec 12)
  /-- `mret`, rule R390. -/
  | mret
  deriving DecidableEq, Repr

end Sys2Proof
end

