-- ==== Sys2Proof/Decode.lean ====
section
/-! DEFINITION. The decoder and, after it, the encoder, both written from the same tables: the length rules (R66),
the 32-bit formats (R331, R332) with the encodings of files 40, 48, 49 and 60, the eight 48-bit formats (R74 to R81)
with their sub-field tables (R85 to R93) and the encodings of files 42 to 45. Both are total. A decoder error names
why the bits are no instruction; the machine raises IllegalInstruction for every one of them (rules R99, R100, D16). -/

namespace Sys2Proof

/-! ## Byte order (rules R50, R51) -/

/-- The value of a little-endian byte list: its first byte is the least significant. -/
def leNat : List Byte → Nat
  | [] => 0
  | b :: bs => b.toNat + 256 * leNat bs

/-- The `n` low bytes of a value, least significant first. -/
def leBytes : Nat → Nat → List Byte
  | 0, _ => []
  | n + 1, v => BitVec.ofNat 8 v :: leBytes n (v / 256)

/-! ## Length (rule R66) -/

/-- The length in bytes that the first parcel announces (rule R66); `none` where no format is defined (U31). -/
def instrLen (parcel : Nat) : Option Nat :=
  if parcel % 4 ≠ 3 then some 2
  else if parcel / 4 % 8 ≠ 7 then some 4
  else if parcel % 64 = 31 then some 6
  else none

/-- Why bits are no instruction. Every error is safe: the machine takes the exception the spec names. -/
inductive DecodeError where
  /-- Fewer bytes than the first parcel announces. -/
  | truncated
  /-- Bits 5:0 = 111111: longer than 48 bits, no format defined (U31). -/
  | tooLong
  /-- A 16-bit parcel: RVC is not transcribed by the spec (U36). -/
  | compressed
  /-- A format-table Reserved bit is not zero (U1). -/
  | reservedBit
  /-- pred = 001 (U2 to U4). -/
  | reservedPred
  /-- A major opcode with no instruction, or with no 48-bit form (U5, U35). -/
  | reservedOpcode
  /-- Base fields that select no instruction (U6, U35). -/
  | noInstruction
  /-- The rounding-mode codes 101 and 110 (rule R265). -/
  | reservedRounding
  deriving DecidableEq, Repr

/-! ## Field codes -/

/-- `fmt` codes (rule R109). -/
def Fmt.ofBits (b : BitVec 2) : Fmt :=
  match b.toNat with
  | 0 => .s
  | 1 => .d
  | 2 => .h
  | _ => .q

/-- `fmt` codes (rule R109). -/
def Fmt.toBits : Fmt → BitVec 2
  | .s => 0b00#2
  | .d => 0b01#2
  | .h => 0b10#2
  | .q => 0b11#2

/-- Rounding-mode codes (rule R110); 101, 110 and (outside the `rm` field) 111 are reserved. -/
def RoundMode.ofNat? : Nat → Option RoundMode
  | 0 => some .rne
  | 1 => some .rtz
  | 2 => some .rdn
  | 3 => some .rup
  | 4 => some .rmm
  | _ => none

/-- Rounding-mode codes (rule R110). -/
def RoundMode.toBits : RoundMode → BitVec 3
  | .rne => 0b000#3
  | .rtz => 0b001#3
  | .rdn => 0b010#3
  | .rup => 0b011#3
  | .rmm => 0b100#3

/-- The `rm` field as a rounding mode (rules R110, R265). -/
def Rm.ofBits? (b : BitVec 3) : Option Rm :=
  match b.toNat with
  | 7 => some .dyn
  | n => (RoundMode.ofNat? n).map .fixed

/-- The `rm` field (rule R110). -/
def Rm.toBits : Rm → BitVec 3
  | .fixed m => m.toBits
  | .dyn => 0b111#3

/-- svlen codes (rule R86): 00 means 4. -/
def SvLen.ofBits (b : BitVec 2) : SvLen :=
  match b.toNat with
  | 0 => .four
  | 1 => .one
  | 2 => .two
  | _ => .three

/-- svlen codes (rule R86). -/
def SvLen.toBits : SvLen → BitVec 2
  | .four => 0b00#2
  | .one => 0b01#2
  | .two => 0b10#2
  | .three => 0b11#2

/-- pred codes (rule R88); 001 is reserved. -/
def Pred.ofBits? (b : BitVec 3) : Option Pred :=
  match b.toNat with
  | 0 => some .always
  | 2 => some (.on .x9 false)
  | 3 => some (.on .x9 true)
  | 4 => some (.on .x10 false)
  | 5 => some (.on .x10 true)
  | 6 => some (.on .x11 false)
  | 7 => some (.on .x11 true)
  | _ => none

/-- pred codes (rule R88). -/
def Pred.toBits : Pred → BitVec 3
  | .always => 0b000#3
  | .on .x9 false => 0b010#3
  | .on .x9 true => 0b011#3
  | .on .x10 false => 0b100#3
  | .on .x10 true => 0b101#3
  | .on .x11 false => 0b110#3
  | .on .x11 true => 0b111#3

/-- itype codes (rule R89). -/
def IType.ofBits (b : BitVec 2) : IType :=
  match b.toNat with
  | 0 => .b
  | 1 => .h
  | 2 => .w
  | _ => .xl

/-- itype codes (rule R89). -/
def IType.toBits : IType → BitVec 2
  | .b => 0b00#2
  | .h => 0b01#2
  | .w => 0b10#2
  | .xl => 0b11#2

/-- lsk codes (rule R85): all sixteen are defined. -/
def Lsk.ofBits (b : BitVec 4) : Lsk :=
  match b.toNat with
  | 0 => .c
  | 1 => .x
  | 2 => .si 0
  | 3 => .si 1
  | 4 => .si 2
  | 5 => .si 3
  | 6 => .si 4
  | 7 => .si 5
  | 8 => .s 0
  | 9 => .s 1
  | 10 => .s 2
  | 11 => .s 3
  | 12 => .s 4
  | 13 => .s 5
  | 14 => .s 6
  | _ => .s 7

/-- lsk codes (rule R85). -/
def Lsk.toBits : Lsk → BitVec 4
  | .c => 0b0000#4
  | .x => 0b0001#4
  | .si k => BitVec.ofNat 4 (k.val + 2)
  | .s k => BitVec.ofNat 4 (k.val + 8)

/-- vtp5 (rule R92): pred = vtp5[4:2], svlen = vtp5[1:0]; 001XX is reserved. -/
def Vtp.ofBits? (b : BitVec 5) : Option Vtp :=
  (Pred.ofBits? (b.extractLsb' 2 3)).map fun p => { pred := p, svlen := SvLen.ofBits (b.extractLsb' 0 2) }

/-- vtp5 (rule R92). -/
def Vtp.toBits (v : Vtp) : BitVec 5 := v.pred.toBits ++ v.svlen.toBits

/-- vitp6 (rule R93, C3): itype = vitp6[5:4], pred = (0, vitp6[3:2]), svlen = vitp6[1:0]; XX01XX is reserved. -/
def Vitp.ofBits? (b : BitVec 6) : Option Vitp :=
  (Pred.ofBits? (0b0#1 ++ b.extractLsb' 2 2)).map fun p =>
    { itype := IType.ofBits (b.extractLsb' 4 2), pred := p, svlen := SvLen.ofBits (b.extractLsb' 0 2) }

/-- vitp6 (rule R93). -/
def Vitp.toBits (v : Vitp) : BitVec 6 := v.itype.toBits ++ (v.pred.toBits.extractLsb' 0 2 ++ v.svlen.toBits)

/-! ## Decoding a 32-bit word (rules R331, R332, R340 to R374, R501 to R595, R123, R124, R390) -/

/-- The answer for fields that select no instruction. -/
abbrev noInstr : Except DecodeError Instr := .error .noInstruction

/-- An instruction whose `rm` field is a rounding mode (rule R265). -/
def withRm (rm : BitVec 3) (k : Rm → Instr) : Except DecodeError Instr :=
  match Rm.ofBits? rm with
  | some r => .ok (k r)
  | none => .error .reservedRounding

/-- LOAD, opcode 0000011 (rules R545 to R551). -/
def decodeLoad (rd rs1 : BitVec 5) (imm : BitVec 12) (f3 : Nat) : Except DecodeError Instr :=
  match f3 with
  | 0b000 => .ok (.lb rd rs1 imm)
  | 0b001 => .ok (.lh rd rs1 imm)
  | 0b010 => .ok (.lw rd rs1 imm)
  | 0b011 => .ok (.ld rd rs1 imm)
  | 0b100 => .ok (.lbu rd rs1 imm)
  | 0b101 => .ok (.lhu rd rs1 imm)
  | 0b110 => .ok (.lwu rd rs1 imm)
  | _ => noInstr

/-- LOAD-FP, opcode 0000111 (rules R123, R590 to R592). -/
def decodeLoadFp (rd rs1 : BitVec 5) (imm : BitVec 12) (f3 : Nat) : Except DecodeError Instr :=
  match f3 with
  | 0b001 => .ok (.flh rd rs1 imm)
  | 0b010 => .ok (.flw rd rs1 imm)
  | 0b011 => .ok (.fld rd rs1 imm)
  | 0b100 => .ok (.flq rd rs1 imm)
  | _ => noInstr

/-- STORE, opcode 0100011 (rules R552 to R555). -/
def decodeStore (rs2 rs1 : BitVec 5) (imm : BitVec 12) (f3 : Nat) : Except DecodeError Instr :=
  match f3 with
  | 0b000 => .ok (.sb rs2 rs1 imm)
  | 0b001 => .ok (.sh rs2 rs1 imm)
  | 0b010 => .ok (.sw rs2 rs1 imm)
  | 0b011 => .ok (.sd rs2 rs1 imm)
  | _ => noInstr

/-- STORE-FP, opcode 0100111 (rules R124, R593 to R595). -/
def decodeStoreFp (rs2 rs1 : BitVec 5) (imm : BitVec 12) (f3 : Nat) : Except DecodeError Instr :=
  match f3 with
  | 0b001 => .ok (.fsh rs2 rs1 imm)
  | 0b010 => .ok (.fsw rs2 rs1 imm)
  | 0b011 => .ok (.fsd rs2 rs1 imm)
  | 0b100 => .ok (.fsq rs2 rs1 imm)
  | _ => noInstr

/-- OP-IMM, opcode 0010011 (rules R503 to R511). A shift takes shamt = insn[25:20] with insn[31:26] fixed; that
insn[25] must be 0 at XLEN = 32 is the meaning's condition shamt < XLEN. -/
def decodeOpImm (rd rs1 : BitVec 5) (imm : BitVec 12) (f3 : Nat) : Except DecodeError Instr :=
  match f3 with
  | 0b000 => .ok (.addi rd rs1 imm)
  | 0b010 => .ok (.slti rd rs1 imm)
  | 0b011 => .ok (.sltiu rd rs1 imm)
  | 0b100 => .ok (.xori rd rs1 imm)
  | 0b110 => .ok (.ori rd rs1 imm)
  | 0b111 => .ok (.andi rd rs1 imm)
  | 0b001 =>
    match (imm.extractLsb' 6 6).toNat with
    | 0b000000 => .ok (.slli rd rs1 (imm.extractLsb' 0 6))
    | _ => noInstr
  | 0b101 =>
    match (imm.extractLsb' 6 6).toNat with
    | 0b000000 => .ok (.srli rd rs1 (imm.extractLsb' 0 6))
    | 0b010000 => .ok (.srai rd rs1 (imm.extractLsb' 0 6))
    | _ => noInstr
  | _ => noInstr

/-- OP-IMM-32, opcode 0011011 (rules R522 to R525). -/
def decodeOpImm32 (rd rs1 : BitVec 5) (imm : BitVec 12) (f3 : Nat) : Except DecodeError Instr :=
  match f3 with
  | 0b000 => .ok (.addiw rd rs1 imm)
  | 0b001 =>
    match (imm.extractLsb' 5 7).toNat with
    | 0b0000000 => .ok (.slliw rd rs1 (imm.extractLsb' 0 5))
    | _ => noInstr
  | 0b101 =>
    match (imm.extractLsb' 5 7).toNat with
    | 0b0000000 => .ok (.srliw rd rs1 (imm.extractLsb' 0 5))
    | 0b0100000 => .ok (.sraiw rd rs1 (imm.extractLsb' 0 5))
    | _ => noInstr
  | _ => noInstr

/-- OP, opcode 0110011 (rules R512 to R521, R531 to R538). -/
def decodeOp (rd rs1 rs2 : BitVec 5) (f7 f3 : Nat) : Except DecodeError Instr :=
  match f7, f3 with
  | 0b0000000, 0b000 => .ok (.add rd rs1 rs2)
  | 0b0100000, 0b000 => .ok (.sub rd rs1 rs2)
  | 0b0000000, 0b001 => .ok (.sll rd rs1 rs2)
  | 0b0000000, 0b010 => .ok (.slt rd rs1 rs2)
  | 0b0000000, 0b011 => .ok (.sltu rd rs1 rs2)
  | 0b0000000, 0b100 => .ok (.xor rd rs1 rs2)
  | 0b0000000, 0b101 => .ok (.srl rd rs1 rs2)
  | 0b0100000, 0b101 => .ok (.sra rd rs1 rs2)
  | 0b0000000, 0b110 => .ok (.or rd rs1 rs2)
  | 0b0000000, 0b111 => .ok (.and rd rs1 rs2)
  | 0b0000001, 0b000 => .ok (.mul rd rs1 rs2)
  | 0b0000001, 0b001 => .ok (.mulh rd rs1 rs2)
  | 0b0000001, 0b010 => .ok (.mulhsu rd rs1 rs2)
  | 0b0000001, 0b011 => .ok (.mulhu rd rs1 rs2)
  | 0b0000001, 0b100 => .ok (.div rd rs1 rs2)
  | 0b0000001, 0b101 => .ok (.divu rd rs1 rs2)
  | 0b0000001, 0b110 => .ok (.rem rd rs1 rs2)
  | 0b0000001, 0b111 => .ok (.remu rd rs1 rs2)
  | _, _ => noInstr

/-- OP-32, opcode 0111011 (rules R526 to R530, R539 to R543). -/
def decodeOp32 (rd rs1 rs2 : BitVec 5) (f7 f3 : Nat) : Except DecodeError Instr :=
  match f7, f3 with
  | 0b0000000, 0b000 => .ok (.addw rd rs1 rs2)
  | 0b0100000, 0b000 => .ok (.subw rd rs1 rs2)
  | 0b0000000, 0b001 => .ok (.sllw rd rs1 rs2)
  | 0b0000000, 0b101 => .ok (.srlw rd rs1 rs2)
  | 0b0100000, 0b101 => .ok (.sraw rd rs1 rs2)
  | 0b0000001, 0b000 => .ok (.mulw rd rs1 rs2)
  | 0b0000001, 0b100 => .ok (.divw rd rs1 rs2)
  | 0b0000001, 0b101 => .ok (.divuw rd rs1 rs2)
  | 0b0000001, 0b110 => .ok (.remw rd rs1 rs2)
  | 0b0000001, 0b111 => .ok (.remuw rd rs1 rs2)
  | _, _ => noInstr

/-- BRANCH, opcode 1100011 (rules R342 to R347). -/
def decodeBranch (rs1 rs2 : BitVec 5) (imm : BitVec 12) (f3 : Nat) : Except DecodeError Instr :=
  match f3 with
  | 0b000 => .ok (.beq rs1 rs2 imm)
  | 0b001 => .ok (.bne rs1 rs2 imm)
  | 0b100 => .ok (.blt rs1 rs2 imm)
  | 0b101 => .ok (.bge rs1 rs2 imm)
  | 0b110 => .ok (.bltu rs1 rs2 imm)
  | 0b111 => .ok (.bgeu rs1 rs2 imm)
  | _ => noInstr

/-- SYSTEM, opcode 1110011 (rules R361, R362, R369 to R374, R390); the other privileged encodings are no
instruction (rule R363). -/
def decodeSystem (w : BitVec 32) (rd rs1 : BitVec 5) (imm : BitVec 12) (f3 : Nat) : Except DecodeError Instr :=
  match f3 with
  | 0b000 =>
    match w.toNat with
    | 0x00000073 => .ok .ecall
    | 0x00100073 => .ok .ebreak
    | 0x30200073 => .ok .mret
    | _ => noInstr
  | 0b001 => .ok (.csrrw rd rs1 imm)
  | 0b010 => .ok (.csrrs rd rs1 imm)
  | 0b011 => .ok (.csrrc rd rs1 imm)
  | 0b101 => .ok (.csrrwi rd rs1 imm)
  | 0b110 => .ok (.csrrsi rd rs1 imm)
  | 0b111 => .ok (.csrrci rd rs1 imm)
  | _ => noInstr

/-- FCVT with an integer result, by the rs2 slot (rules R574 to R577). -/
def decodeFcvtInt (fmt : Fmt) (rd rs1 : BitVec 5) (slot : Nat) (rm : BitVec 3) : Except DecodeError Instr :=
  match slot with
  | 0b00000 => withRm rm fun r => .fcvtWFmt fmt r rd rs1
  | 0b00001 => withRm rm fun r => .fcvtWuFmt fmt r rd rs1
  | 0b00010 => withRm rm fun r => .fcvtLFmt fmt r rd rs1
  | 0b00011 => withRm rm fun r => .fcvtLuFmt fmt r rd rs1
  | _ => noInstr

/-- FCVT from an integer, by the rs2 slot (rules R578 to R581). -/
def decodeFcvtFromInt (fmt : Fmt) (rd rs1 : BitVec 5) (slot : Nat) (rm : BitVec 3) : Except DecodeError Instr :=
  match slot with
  | 0b00000 => withRm rm fun r => .fcvtFmtW fmt r rd rs1
  | 0b00001 => withRm rm fun r => .fcvtFmtWu fmt r rd rs1
  | 0b00010 => withRm rm fun r => .fcvtFmtL fmt r rd rs1
  | 0b00011 => withRm rm fun r => .fcvtFmtLu fmt r rd rs1
  | _ => noInstr

/-- FCVT between FP formats: the source format is the rs2 slot, at most 00011 and different from `fmt` (rules R126,
R582). -/
def decodeFcvtFmt (fmt : Fmt) (rd rs1 rs2 : BitVec 5) (rm : BitVec 3) : Except DecodeError Instr :=
  if (rs2.extractLsb' 2 3).toNat = 0 ∧ Fmt.ofBits (rs2.extractLsb' 0 2) ≠ fmt then
    withRm rm fun r => .fcvtFmtFmt fmt (Fmt.ofBits (rs2.extractLsb' 0 2)) r rd rs1
  else noInstr

/-- OP-FP, opcode 1010011, by insn[31:27] (rules R561 to R585). -/
def decodeOpFp (fop : Nat) (fmt : Fmt) (rd rs1 rs2 : BitVec 5) (rm : BitVec 3) : Except DecodeError Instr :=
  match fop with
  | 0b00000 => withRm rm fun r => .faddFmt fmt r rd rs1 rs2
  | 0b00001 => withRm rm fun r => .fsubFmt fmt r rd rs1 rs2
  | 0b00010 => withRm rm fun r => .fmulFmt fmt r rd rs1 rs2
  | 0b00011 => withRm rm fun r => .fdivFmt fmt r rd rs1 rs2
  | 0b00100 =>
    match rm.toNat with
    | 0b000 => .ok (.fsgnjFmt fmt rd rs1 rs2)
    | 0b001 => .ok (.fsgnjnFmt fmt rd rs1 rs2)
    | 0b010 => .ok (.fsgnjxFmt fmt rd rs1 rs2)
    | _ => noInstr
  | 0b00101 =>
    match rm.toNat with
    | 0b000 => .ok (.fminFmt fmt rd rs1 rs2)
    | 0b001 => .ok (.fmaxFmt fmt rd rs1 rs2)
    | _ => noInstr
  | 0b10100 =>
    match rm.toNat with
    | 0b010 => .ok (.feqFmt fmt rd rs1 rs2)
    | 0b001 => .ok (.fltFmt fmt rd rs1 rs2)
    | 0b000 => .ok (.fleFmt fmt rd rs1 rs2)
    | _ => noInstr
  | 0b01011 => if rs2.toNat = 0 then withRm rm fun r => .fsqrtFmt fmt r rd rs1 else noInstr
  | 0b01000 => decodeFcvtFmt fmt rd rs1 rs2 rm
  | 0b11000 => decodeFcvtInt fmt rd rs1 rs2.toNat rm
  | 0b11010 => decodeFcvtFromInt fmt rd rs1 rs2.toNat rm
  | 0b11100 =>
    match rs2.toNat, rm.toNat with
    | 0, 0b000 => .ok (.fmvXFmt fmt rd rs1)
    | 0, 0b001 => .ok (.fclassFmt fmt rd rs1)
    | _, _ => noInstr
  | 0b11110 =>
    match rs2.toNat, rm.toNat with
    | 0, 0b000 => .ok (.fmvFmtX fmt rd rs1)
    | _, _ => noInstr
  | _ => noInstr

/-- The I-immediate, insn[31:20] (rule R332). -/
def immI (w : BitVec 32) : BitVec 12 := w.extractLsb' 20 12

/-- The S-immediate (rule R332). -/
def immS (w : BitVec 32) : BitVec 12 := w.extractLsb' 25 7 ++ w.extractLsb' 7 5

/-- imm[12:1] of the B-immediate (rule R332). -/
def immB (w : BitVec 32) : BitVec 12 :=
  w.extractLsb' 31 1 ++ (w.extractLsb' 7 1 ++ (w.extractLsb' 25 6 ++ w.extractLsb' 8 4))

/-- imm[20:1] of the J-immediate (rule R332). -/
def immJ (w : BitVec 32) : BitVec 20 :=
  w.extractLsb' 31 1 ++ (w.extractLsb' 12 8 ++ (w.extractLsb' 20 1 ++ w.extractLsb' 21 10))

/-- A 32-bit word, by its opcode insn[6:0]; an opcode not listed is no instruction (rule R596). -/
def decode32 (w : BitVec 32) : Except DecodeError Instr :=
  let rd := w.extractLsb' 7 5
  let rs1 := w.extractLsb' 15 5
  let rs2 := w.extractLsb' 20 5
  let f3 := (w.extractLsb' 12 3).toNat
  let f7 := (w.extractLsb' 25 7).toNat
  let fmt := Fmt.ofBits (w.extractLsb' 25 2)
  let rm := w.extractLsb' 12 3
  let rs3 := w.extractLsb' 27 5
  match (w.extractLsb' 0 7).toNat with
  | 0b0000011 => decodeLoad rd rs1 (immI w) f3
  | 0b0000111 => decodeLoadFp rd rs1 (immI w) f3
  | 0b0001111 =>
    match f3 with
    | 0b000 => .ok (.fence rd rs1 (immI w))
    | 0b001 => .ok (.fenceI rd rs1 (immI w))
    | _ => noInstr
  | 0b0010011 => decodeOpImm rd rs1 (immI w) f3
  | 0b0010111 => .ok (.auipc rd (w.extractLsb' 12 20))
  | 0b0011011 => decodeOpImm32 rd rs1 (immI w) f3
  | 0b0100011 => decodeStore rs2 rs1 (immS w) f3
  | 0b0100111 => decodeStoreFp rs2 rs1 (immS w) f3
  | 0b0110011 => decodeOp rd rs1 rs2 f7 f3
  | 0b0110111 => .ok (.lui rd (w.extractLsb' 12 20))
  | 0b0111011 => decodeOp32 rd rs1 rs2 f7 f3
  | 0b1000011 => withRm rm fun r => .fmaddFmt fmt r rd rs1 rs2 rs3
  | 0b1000111 => withRm rm fun r => .fmsubFmt fmt r rd rs1 rs2 rs3
  | 0b1001011 => withRm rm fun r => .fnmsubFmt fmt r rd rs1 rs2 rs3
  | 0b1001111 => withRm rm fun r => .fnmaddFmt fmt r rd rs1 rs2 rs3
  | 0b1010011 => decodeOpFp (w.extractLsb' 27 5).toNat fmt rd rs1 rs2 rm
  | 0b1100011 => decodeBranch rs1 rs2 (immB w) f3
  | 0b1100111 =>
    match f3 with
    | 0b000 => .ok (.jalr rd rs1 (immI w))
    | _ => noInstr
  | 0b1101111 => .ok (.jal rd (immJ w))
  | 0b1110011 => decodeSystem w rd rs1 (immI w) f3
  | _ => .error .reservedOpcode

/-! ## Decoding a 48-bit word (rules R71 to R99) -/

/-- The operands and the vtp5 field of a load or store (rules R74, R75). -/
def decodeMem (data base : BitVec 6) (imm : BitVec 12) (lsk : BitVec 4) (vtp : BitVec 5)
    (k : MemOps → Except DecodeError Instr) : Except DecodeError Instr :=
  match Vtp.ofBits? vtp with
  | none => .error .reservedPred
  | some v => k { data := data, base := base, imm := imm, lsk := Lsk.ofBits lsk, vtp := v }

/-- Prefixed LOAD by width (rules R108, R167 to R173). -/
def selectSvLoad (width : Nat) (o : MemOps) : Except DecodeError Instr :=
  match width with
  | 0b000 => .ok (.svLb o)
  | 0b001 => .ok (.svLh o)
  | 0b010 => .ok (.svLw o)
  | 0b011 => .ok (.svLd o)
  | 0b100 => .ok (.svLbu o)
  | 0b101 => .ok (.svLhu o)
  | 0b110 => .ok (.svLwu o)
  | _ => noInstr

/-- Prefixed LOAD-FP by width (rules R108, R174 to R177). -/
def selectSvLoadFp (width : Nat) (o : MemOps) : Except DecodeError Instr :=
  match width with
  | 0b001 => .ok (.svFlh o)
  | 0b010 => .ok (.svFlw o)
  | 0b011 => .ok (.svFld o)
  | 0b100 => .ok (.svFlq o)
  | _ => noInstr

/-- Prefixed STORE by width (rules R108, R178 to R181). -/
def selectSvStore (width : Nat) (o : MemOps) : Except DecodeError Instr :=
  match width with
  | 0b000 => .ok (.svSb o)
  | 0b001 => .ok (.svSh o)
  | 0b010 => .ok (.svSw o)
  | 0b011 => .ok (.svSd o)
  | _ => noInstr

/-- Prefixed STORE-FP by width (rules R108, R182 to R185). -/
def selectSvStoreFp (width : Nat) (o : MemOps) : Except DecodeError Instr :=
  match width with
  | 0b001 => .ok (.svFsh o)
  | 0b010 => .ok (.svFsw o)
  | 0b011 => .ok (.svFsd o)
  | 0b100 => .ok (.svFsq o)
  | _ => noInstr

/-- Prefixed OP (rules R196 to R213, R224). -/
def selectSvOp (f7 f3 : Nat) (o : ROps) : Except DecodeError Instr :=
  match f7, f3 with
  | 0b0000000, 0b000 => .ok (.svAdd o)
  | 0b0100000, 0b000 => .ok (.svSub o)
  | 0b0000000, 0b001 => .ok (.svSll o)
  | 0b0000000, 0b010 => .ok (.svSlt o)
  | 0b0000000, 0b011 => .ok (.svSltu o)
  | 0b0000000, 0b100 => .ok (.svXor o)
  | 0b0000000, 0b101 => .ok (.svSrl o)
  | 0b0100000, 0b101 => .ok (.svSra o)
  | 0b0000000, 0b110 => .ok (.svOr o)
  | 0b0000000, 0b111 => .ok (.svAnd o)
  | 0b0000001, 0b000 => .ok (.svMul o)
  | 0b0000001, 0b001 => .ok (.svMulh o)
  | 0b0000001, 0b010 => .ok (.svMulhsu o)
  | 0b0000001, 0b011 => .ok (.svMulhu o)
  | 0b0000001, 0b100 => .ok (.svDiv o)
  | 0b0000001, 0b101 => .ok (.svDivu o)
  | 0b0000001, 0b110 => .ok (.svRem o)
  | 0b0000001, 0b111 => .ok (.svRemu o)
  | _, _ => noInstr

/-- Prefixed OP-32 (rules R214 to R224). -/
def selectSvOp32 (f7 f3 : Nat) (o : ROps) : Except DecodeError Instr :=
  match f7, f3 with
  | 0b0000000, 0b000 => .ok (.svAddw o)
  | 0b0100000, 0b000 => .ok (.svSubw o)
  | 0b0000000, 0b001 => .ok (.svSllw o)
  | 0b0000000, 0b101 => .ok (.svSrlw o)
  | 0b0100000, 0b101 => .ok (.svSraw o)
  | 0b0000001, 0b000 => .ok (.svMulw o)
  | 0b0000001, 0b100 => .ok (.svDivw o)
  | 0b0000001, 0b101 => .ok (.svDivuw o)
  | 0b0000001, 0b110 => .ok (.svRemw o)
  | 0b0000001, 0b111 => .ok (.svRemuw o)
  | _, _ => noInstr

/-- The operands of a shift immediate out of those of P48I (rule R95). -/
def ShOps.ofIOps (o : IOps) : ShOps :=
  { rd := o.rd, rs1 := o.rs1, shamt := o.imm.extractLsb' 0 6, vd := o.vd, vs1 := o.vs1, vitp := o.vitp }

/-- Prefixed OP-IMM (rules R231 to R242, R250). imm[11:6] is the function field of a shift at XLEN = 64; at XLEN = 32
the further requirement imm[5] = 0 is the meanings' condition shamt < w (rule R233). -/
def selectSvOpImm (f3 : Nat) (o : IOps) : Except DecodeError Instr :=
  match f3 with
  | 0b000 => .ok (.svAddi o)
  | 0b010 => .ok (.svSlti o)
  | 0b011 => .ok (.svSltiu o)
  | 0b100 => .ok (.svXori o)
  | 0b110 => .ok (.svOri o)
  | 0b111 => .ok (.svAndi o)
  | 0b001 =>
    match (o.imm.extractLsb' 6 6).toNat with
    | 0b000000 => .ok (.svSlli (ShOps.ofIOps o))
    | _ => noInstr
  | 0b101 =>
    match (o.imm.extractLsb' 6 6).toNat with
    | 0b000000 => .ok (.svSrli (ShOps.ofIOps o))
    | 0b010000 => .ok (.svSrai (ShOps.ofIOps o))
    | _ => noInstr
  | _ => noInstr

/-- Prefixed OP-IMM-32 (rules R243 to R246, R250). -/
def selectSvOpImm32 (f3 : Nat) (o : IOps) : Except DecodeError Instr :=
  match f3 with
  | 0b000 => .ok (.svAddiw o)
  | 0b001 =>
    match (o.imm.extractLsb' 6 6).toNat with
    | 0b000000 => .ok (.svSlliw (ShOps.ofIOps o))
    | _ => noInstr
  | 0b101 =>
    match (o.imm.extractLsb' 6 6).toNat with
    | 0b000000 => .ok (.svSrliw (ShOps.ofIOps o))
    | 0b010000 => .ok (.svSraiw (ShOps.ofIOps o))
    | _ => noInstr
  | _ => noInstr

/-- Prefixed OP-FP with two FP sources, P48FR, by fop and rm (rules R98, R268 to R279, R299). -/
def selectSvFr (fop : Nat) (rm : BitVec 3) (o : FrOps) : Except DecodeError Instr :=
  match fop with
  | 0b00000 => withRm rm fun r => .svFaddFmt r o
  | 0b00001 => withRm rm fun r => .svFsubFmt r o
  | 0b00010 => withRm rm fun r => .svFmulFmt r o
  | 0b00011 => withRm rm fun r => .svFdivFmt r o
  | 0b00100 =>
    match rm.toNat with
    | 0b000 => .ok (.svFsgnjFmt o)
    | 0b001 => .ok (.svFsgnjnFmt o)
    | 0b010 => .ok (.svFsgnjxFmt o)
    | _ => noInstr
  | 0b00101 =>
    match rm.toNat with
    | 0b000 => .ok (.svFminFmt o)
    | 0b001 => .ok (.svFmaxFmt o)
    | _ => noInstr
  | 0b10100 =>
    match rm.toNat with
    | 0b010 => .ok (.svFeqFmt o)
    | 0b001 => .ok (.svFltFmt o)
    | 0b000 => .ok (.svFleFmt o)
    | _ => noInstr
  | _ => noInstr

/-- Prefixed OP-FP with one source, P48FI, by fop, funct5 and rm (rules R98, R280 to R293, R299). -/
def selectSvFi (fop : Nat) (funct5 : BitVec 5) (rm : BitVec 3) (o : FiOps) : Except DecodeError Instr :=
  match fop with
  | 0b01011 => if funct5.toNat = 0 then withRm rm fun r => .svFsqrtFmt r o else noInstr
  | 0b01000 =>
    if (funct5.extractLsb' 2 3).toNat = 0 ∧ Fmt.ofBits (funct5.extractLsb' 0 2) ≠ o.fmt then
      withRm rm fun r => .svFcvtFmtFmt (Fmt.ofBits (funct5.extractLsb' 0 2)) r o
    else noInstr
  | 0b11000 =>
    match funct5.toNat with
    | 0b00000 => withRm rm fun r => .svFcvtWFmt r o
    | 0b00001 => withRm rm fun r => .svFcvtWuFmt r o
    | 0b00010 => withRm rm fun r => .svFcvtLFmt r o
    | 0b00011 => withRm rm fun r => .svFcvtLuFmt r o
    | _ => noInstr
  | 0b11010 =>
    match funct5.toNat with
    | 0b00000 => withRm rm fun r => .svFcvtFmtW r o
    | 0b00001 => withRm rm fun r => .svFcvtFmtWu r o
    | 0b00010 => withRm rm fun r => .svFcvtFmtL r o
    | 0b00011 => withRm rm fun r => .svFcvtFmtLu r o
    | _ => noInstr
  | 0b11100 =>
    match funct5.toNat, rm.toNat with
    | 0, 0b000 => .ok (.svFmvXFmt o)
    | 0, 0b001 => .ok (.svFclassFmt o)
    | _, _ => noInstr
  | 0b11110 =>
    match funct5.toNat, rm.toNat with
    | 0, 0b000 => .ok (.svFmvFmtX o)
    | _, _ => noInstr
  | _ => noInstr

/-- Which one-source groups of OP-FP take P48FI (rule R98). -/
def isFi (fop : Nat) : Bool :=
  match fop with
  | 0b01011 => true
  | 0b01000 => true
  | 0b11000 => true
  | 0b11010 => true
  | 0b11100 => true
  | 0b11110 => true
  | _ => false

/-- Whether the one-bit field at bit `i` is set (a class bit of rule R82, or a Reserved bit). -/
def bitAt (w : BitVec 48) (i : Nat) : Bool := w.extractLsb' i 1 == 1#1

/-- A 6-bit register field: the high bit stands at `hi`, the low five from `lo` (rule R82). -/
def reg6 (w : BitVec 48) (hi lo : Nat) : BitVec 6 := w.extractLsb' hi 1 ++ w.extractLsb' lo 5

/-- P48LD (rule R74). -/
def decodeP48ld (w : BitVec 48) (k : MemOps → Except DecodeError Instr) : Except DecodeError Instr :=
  decodeMem (reg6 w 17 23) (reg6 w 16 31) (w.extractLsb' 36 12) (w.extractLsb' 12 4) (w.extractLsb' 7 5) k

/-- P48ST (rule R75). -/
def decodeP48st (w : BitVec 48) (k : MemOps → Except DecodeError Instr) : Except DecodeError Instr :=
  decodeMem (reg6 w 15 36) (reg6 w 16 31) (w.extractLsb' 41 7 ++ w.extractLsb' 23 5)
    (w.extractLsb' 17 1 ++ w.extractLsb' 12 3) (w.extractLsb' 7 5) k

/-- P48R (rule R76). -/
def decodeP48r (w : BitVec 48) (k : ROps → Except DecodeError Instr) : Except DecodeError Instr :=
  match Vitp.ofBits? (w.extractLsb' 7 6) with
  | none => .error .reservedPred
  | some v =>
    k { rd := reg6 w 17 23, rs1 := reg6 w 16 31, rs2 := reg6 w 15 36, vs1 := bitAt w 13, vs2 := bitAt w 14,
        vitp := v }

/-- P48I (rule R77): bit 15 is Reserved. -/
def decodeP48i (w : BitVec 48) (k : IOps → Except DecodeError Instr) : Except DecodeError Instr :=
  if bitAt w 15 then .error .reservedBit
  else
    match Vitp.ofBits? (w.extractLsb' 7 6) with
    | none => .error .reservedPred
    | some v =>
      k { rd := reg6 w 17 23, rs1 := reg6 w 16 31, imm := w.extractLsb' 36 12, vd := bitAt w 14,
          vs1 := bitAt w 13, vitp := v }

/-- P48U (rule R78): bits 16, 15 and 13 are Reserved. -/
def decodeP48u (w : BitVec 48) (k : UOps → Instr) : Except DecodeError Instr :=
  if bitAt w 16 || (bitAt w 15 || bitAt w 13) then .error .reservedBit
  else
    match Vitp.ofBits? (w.extractLsb' 7 6) with
    | none => .error .reservedPred
    | some v => .ok (k { rd := reg6 w 17 23, imm := w.extractLsb' 28 20, vd := bitAt w 14, vitp := v })

/-- P48FR and P48FI (rules R79, R80, R98): bit 12 is Reserved in both, bit 15 in P48FI. -/
def decodeP48opFp (w : BitVec 48) : Except DecodeError Instr :=
  let fop := (w.extractLsb' 43 5).toNat
  let fmt := Fmt.ofBits (w.extractLsb' 41 2)
  let rm := w.extractLsb' 28 3
  if bitAt w 12 then .error .reservedBit
  else
    match Vtp.ofBits? (w.extractLsb' 7 5) with
    | none => .error .reservedPred
    | some v =>
      if isFi fop then
        if bitAt w 15 then .error .reservedBit
        else
          selectSvFi fop (w.extractLsb' 36 5) rm
            { fmt := fmt, rd := reg6 w 17 23, rs1 := reg6 w 16 31, vd := bitAt w 14, vs1 := bitAt w 13, vtp := v }
      else
        selectSvFr fop rm
          { fmt := fmt, rd := reg6 w 17 23, rs1 := reg6 w 16 31, rs2 := reg6 w 15 36, vs1 := bitAt w 13,
            vs2 := bitAt w 14, vtp := v }

/-- P48FR4 (rule R81). -/
def decodeP48fr4 (w : BitVec 48) (k : Rm → Fr4Ops → Instr) : Except DecodeError Instr :=
  match Vtp.ofBits? (w.extractLsb' 7 5) with
  | none => .error .reservedPred
  | some v =>
    withRm (w.extractLsb' 28 3) fun r =>
      k r { fmt := Fmt.ofBits (w.extractLsb' 41 2), rd := reg6 w 17 23, rs1 := reg6 w 16 31, rs2 := reg6 w 15 36,
            rs3 := reg6 w 13 43, vs2 := bitAt w 14, vs3 := bitAt w 12, vtp := v }

/-- A 48-bit word, by op5 = insn[22:18] (rules R97, R99); an op5 not listed has no 48-bit form. -/
def decode48 (w : BitVec 48) : Except DecodeError Instr :=
  if (w.extractLsb' 0 7).toNat ≠ 0b0011111 then .error .reservedBit
  else
    let f3 := (w.extractLsb' 28 3).toNat
    let f7 := (w.extractLsb' 41 7).toNat
    match (w.extractLsb' 18 5).toNat with
    | 0b00000 => decodeP48ld w (selectSvLoad f3)
    | 0b00001 => decodeP48ld w (selectSvLoadFp f3)
    | 0b01000 => decodeP48st w (selectSvStore f3)
    | 0b01001 => decodeP48st w (selectSvStoreFp f3)
    | 0b01100 => decodeP48r w (selectSvOp f7 f3)
    | 0b01110 => decodeP48r w (selectSvOp32 f7 f3)
    | 0b00100 => decodeP48i w (selectSvOpImm f3)
    | 0b00110 => decodeP48i w (selectSvOpImm32 f3)
    | 0b01101 => decodeP48u w .svLui
    | 0b00101 => decodeP48u w .svAuipc
    | 0b10100 => decodeP48opFp w
    | 0b10000 => decodeP48fr4 w .svFmaddFmt
    | 0b10001 => decodeP48fr4 w .svFmsubFmt
    | 0b10010 => decodeP48fr4 w .svFnmsubFmt
    | 0b10011 => decodeP48fr4 w .svFnmaddFmt
    | _ => .error .reservedOpcode

/-! ## Decoding a word of a known length, and bytes -/

/-- A word of `n` bytes by the encodings the spec gives. -/
def decodeFixed (n w : Nat) : Except DecodeError Instr :=
  match n with
  | 4 => decode32 (BitVec.ofNat 32 w)
  | 6 => decode48 (BitVec.ofNat 48 w)
  | _ => .error .compressed

/-- The value of an operand field, gathered from its pieces of the word (rule R315). -/
def gather : List FieldPiece → Nat → Nat
  | [], _ => 0
  | p :: ps, w => w / 2 ^ p.pos % 2 ^ p.bits * 2 ^ p.lo ||| gather ps w

/-- Whether a word has the pattern of `setvl` (rule R315). -/
def SetvlEncoding.selects (enc : SetvlEncoding) (w : Nat) : Bool := w &&& enc.mask == enc.pattern

/-- rd, rs1 and imm of a word of `setvl` (rules R312, R315). -/
def SetvlEncoding.operands (enc : SetvlEncoding) (w : Nat) : BitVec 5 × BitVec 5 × Nat :=
  (BitVec.ofNat 5 (gather enc.rd w), BitVec.ofNat 5 (gather enc.rs1 w), gather enc.imm w)

/-- `setvl` as the word `w` holds it. -/
def SetvlEncoding.instr (enc : SetvlEncoding) (w : Nat) : Instr :=
  .setvl (enc.operands w).1 (enc.operands w).2.1 { value := (enc.operands w).2.2, insn := w }

/-- A word of `n` bytes: where the encodings the spec gives have no instruction, the pattern of `setvl` is tried
(rules R315, R596, log entry 17). -/
def decodeWord (enc : SetvlEncoding) (n w : Nat) : Except DecodeError Instr :=
  match decodeFixed n w with
  | .ok i => .ok i
  | .error e =>
    if n = enc.len ∧ enc.selects w = true then .ok (enc.instr w) else .error e

/-- The instruction at the head of a byte list, with the rest of the list (rule R66). -/
def decode (enc : SetvlEncoding) (bs : List Byte) : Except DecodeError (Instr × List Byte) :=
  if bs.length < 2 then .error .truncated
  else
    match instrLen (leNat (bs.take 2)) with
    | none => .error .tooLong
    | some n =>
      if bs.length < n then .error .truncated
      else
        match decodeWord enc n (leNat (bs.take n)) with
        | .ok i => .ok (i, bs.drop n)
        | .error e => .error e

/-- What the decoder reads from an instruction whose bits are `w`, the bits above `nbits` being zero; the `setvl`
pattern is that of the machine at reset. Bit 0 is the least significant bit of the first (lowest-addressed) parcel. -/
def decodeTableWord (nbits w : Nat) : Option Instr :=
  match decode SetvlEncoding.custom0 (leBytes 6 (w % 2 ^ nbits)) with
  | .ok (i, _) => some i
  | .error _ => none

/-! ## Encoding -/

/-- R-type (rule R331). -/
def wordR (f7 : BitVec 7) (rs2 rs1 : BitVec 5) (f3 : BitVec 3) (rd : BitVec 5) (op : BitVec 7) : BitVec 32 :=
  f7 ++ (rs2 ++ (rs1 ++ (f3 ++ (rd ++ op))))

/-- R4-type (rule R331). -/
def wordR4 (rs3 : BitVec 5) (fmt : Fmt) (rs2 rs1 : BitVec 5) (rm : Rm) (rd : BitVec 5) (op : BitVec 7) : BitVec 32 :=
  rs3 ++ (fmt.toBits ++ (rs2 ++ (rs1 ++ (rm.toBits ++ (rd ++ op)))))

/-- R-type of OP-FP: insn[31:27] is `fop`, insn[26:25] is `fmt`. -/
def wordF (fop : BitVec 5) (fmt : Fmt) (rs2 rs1 : BitVec 5) (f3 : BitVec 3) (rd : BitVec 5) : BitVec 32 :=
  fop ++ (fmt.toBits ++ (rs2 ++ (rs1 ++ (f3 ++ (rd ++ 0b1010011#7)))))

/-- I-type (rule R331). -/
def wordI (imm : BitVec 12) (rs1 : BitVec 5) (f3 : BitVec 3) (rd : BitVec 5) (op : BitVec 7) : BitVec 32 :=
  imm ++ (rs1 ++ (f3 ++ (rd ++ op)))

/-- S-type (rule R331). -/
def wordS (imm : BitVec 12) (rs2 rs1 : BitVec 5) (f3 : BitVec 3) (op : BitVec 7) : BitVec 32 :=
  imm.extractLsb' 5 7 ++ (rs2 ++ (rs1 ++ (f3 ++ (imm.extractLsb' 0 5 ++ op))))

/-- B-type (rule R331); `imm` holds imm[12:1]. -/
def wordB (imm : BitVec 12) (rs2 rs1 : BitVec 5) (f3 : BitVec 3) : BitVec 32 :=
  imm.extractLsb' 11 1 ++ (imm.extractLsb' 4 6 ++ (rs2 ++ (rs1 ++ (f3 ++
    (imm.extractLsb' 0 4 ++ (imm.extractLsb' 10 1 ++ 0b1100011#7))))))

/-- U-type (rule R331). -/
def wordU (imm : BitVec 20) (rd : BitVec 5) (op : BitVec 7) : BitVec 32 := imm ++ (rd ++ op)

/-- J-type (rule R331); `imm` holds imm[20:1]. -/
def wordJ (imm : BitVec 20) (rd : BitVec 5) : BitVec 32 :=
  imm.extractLsb' 19 1 ++ (imm.extractLsb' 0 10 ++ (imm.extractLsb' 10 1 ++ (imm.extractLsb' 11 8 ++
    (rd ++ 0b1101111#7))))

/-- The high bit of a 6-bit register field. -/
abbrev hi1 (r : BitVec 6) : BitVec 1 := r.extractLsb' 5 1

/-- The low five bits of a 6-bit register field. -/
abbrev lo5 (r : BitVec 6) : BitVec 5 := r.extractLsb' 0 5

/-- A class bit. -/
abbrev bit1 (b : Bool) : BitVec 1 := BitVec.ofBool b

/-- P48LD (rule R74). -/
def wordLd (op5 : BitVec 5) (width : BitVec 3) (o : MemOps) : BitVec 48 :=
  o.imm ++ (lo5 o.base ++ (width ++ (lo5 o.data ++ (op5 ++ (hi1 o.data ++ (hi1 o.base ++ (o.lsk.toBits ++
    (o.vtp.toBits ++ 0b0011111#7))))))))

/-- P48ST (rule R75). -/
def wordSt (op5 : BitVec 5) (width : BitVec 3) (o : MemOps) : BitVec 48 :=
  o.imm.extractLsb' 5 7 ++ (lo5 o.data ++ (lo5 o.base ++ (width ++ (o.imm.extractLsb' 0 5 ++ (op5 ++
    (o.lsk.toBits.extractLsb' 3 1 ++ (hi1 o.base ++ (hi1 o.data ++ (o.lsk.toBits.extractLsb' 0 3 ++
      (o.vtp.toBits ++ 0b0011111#7))))))))))

/-- P48R (rule R76). -/
def wordP48r (f7 : BitVec 7) (f3 : BitVec 3) (op5 : BitVec 5) (o : ROps) : BitVec 48 :=
  f7 ++ (lo5 o.rs2 ++ (lo5 o.rs1 ++ (f3 ++ (lo5 o.rd ++ (op5 ++ (hi1 o.rd ++ (hi1 o.rs1 ++ (hi1 o.rs2 ++
    (bit1 o.vs2 ++ (bit1 o.vs1 ++ (o.vitp.toBits ++ 0b0011111#7)))))))))))

/-- P48I (rule R77). -/
def wordP48i (f3 : BitVec 3) (op5 : BitVec 5) (o : IOps) : BitVec 48 :=
  o.imm ++ (lo5 o.rs1 ++ (f3 ++ (lo5 o.rd ++ (op5 ++ (hi1 o.rd ++ (hi1 o.rs1 ++ (0b0#1 ++ (bit1 o.vd ++
    (bit1 o.vs1 ++ (o.vitp.toBits ++ 0b0011111#7))))))))))

/-- P48I of a shift immediate (rules R77, R95): `f6` is imm[11:6]. -/
def wordP48sh (f6 : BitVec 6) (f3 : BitVec 3) (op5 : BitVec 5) (o : ShOps) : BitVec 48 :=
  f6 ++ (o.shamt ++ (lo5 o.rs1 ++ (f3 ++ (lo5 o.rd ++ (op5 ++ (hi1 o.rd ++ (hi1 o.rs1 ++ (0b0#1 ++ (bit1 o.vd ++
    (bit1 o.vs1 ++ (o.vitp.toBits ++ 0b0011111#7)))))))))))

/-- P48U (rule R78). -/
def wordP48u (op5 : BitVec 5) (o : UOps) : BitVec 48 :=
  o.imm ++ (lo5 o.rd ++ (op5 ++ (hi1 o.rd ++ (0b00#2 ++ (bit1 o.vd ++ (0b0#1 ++ (o.vitp.toBits ++
    0b0011111#7)))))))

/-- P48FR (rule R79). -/
def wordFr (fop : BitVec 5) (rm : BitVec 3) (o : FrOps) : BitVec 48 :=
  fop ++ (o.fmt.toBits ++ (lo5 o.rs2 ++ (lo5 o.rs1 ++ (rm ++ (lo5 o.rd ++ (0b10100#5 ++ (hi1 o.rd ++ (hi1 o.rs1 ++
    (hi1 o.rs2 ++ (bit1 o.vs2 ++ (bit1 o.vs1 ++ (0b0#1 ++ (o.vtp.toBits ++ 0b0011111#7)))))))))))))

/-- P48FI (rule R80). -/
def wordFi (fop funct5 : BitVec 5) (rm : BitVec 3) (o : FiOps) : BitVec 48 :=
  fop ++ (o.fmt.toBits ++ (funct5 ++ (lo5 o.rs1 ++ (rm ++ (lo5 o.rd ++ (0b10100#5 ++ (hi1 o.rd ++ (hi1 o.rs1 ++
    (0b0#1 ++ (bit1 o.vd ++ (bit1 o.vs1 ++ (0b0#1 ++ (o.vtp.toBits ++ 0b0011111#7)))))))))))))

/-- P48FR4 (rule R81). -/
def wordFr4 (op5 : BitVec 5) (rm : Rm) (o : Fr4Ops) : BitVec 48 :=
  lo5 o.rs3 ++ (o.fmt.toBits ++ (lo5 o.rs2 ++ (lo5 o.rs1 ++ (rm.toBits ++ (lo5 o.rd ++ (op5 ++ (hi1 o.rd ++
    (hi1 o.rs1 ++ (hi1 o.rs2 ++ (bit1 o.vs2 ++ (hi1 o.rs3 ++ (bit1 o.vs3 ++ (o.vtp.toBits ++
      0b0011111#7)))))))))))))

/-- The source format in the rs2 slot of an FP-to-FP conversion (rule R126). -/
abbrev srcSlot (src : Fmt) : BitVec 5 := 0b000#3 ++ src.toBits

/-- The bits that an operand's value gives the word, piece by piece (rule R315). -/
def scatter : List FieldPiece → Nat → Nat
  | [], _ => 0
  | p :: ps, v => v / 2 ^ p.lo % 2 ^ p.bits * 2 ^ p.pos ||| scatter ps v

/-- The word of `setvl rd, rs1, imm` with every free bit 0 (rule R315). -/
def setvlWord (enc : SetvlEncoding) (rd rs1 : BitVec 5) (imm : Nat) : Nat :=
  enc.pattern ||| (scatter enc.rd rd.toNat ||| (scatter enc.rs1 rs1.toNat ||| scatter enc.imm imm))

/-- The bits of an instruction: a 32-bit word, a 48-bit word, or the bytes and value of the open `setvl` pattern. -/
inductive CodeWord where
  | w32 (w : BitVec 32)
  | w48 (w : BitVec 48)
  | open_ (len word : Nat)
  deriving DecidableEq, Repr

/-- Its length in bytes. -/
def CodeWord.len : CodeWord → Nat
  | .w32 _ => 4
  | .w48 _ => 6
  | .open_ n _ => n

/-- Its value as one number, the first parcel least significant. -/
def CodeWord.value : CodeWord → Nat
  | .w32 w => w.toNat
  | .w48 w => w.toNat
  | .open_ _ w => w

/-- The word of an instruction: each arm has the fixed fields of the row's encoding rule. -/
def codeWord (enc : SetvlEncoding) : Instr → CodeWord
  | .svLb o => .w48 (wordLd 0b00000#5 0b000#3 o)
  | .svLh o => .w48 (wordLd 0b00000#5 0b001#3 o)
  | .svLw o => .w48 (wordLd 0b00000#5 0b010#3 o)
  | .svLd o => .w48 (wordLd 0b00000#5 0b011#3 o)
  | .svLbu o => .w48 (wordLd 0b00000#5 0b100#3 o)
  | .svLhu o => .w48 (wordLd 0b00000#5 0b101#3 o)
  | .svLwu o => .w48 (wordLd 0b00000#5 0b110#3 o)
  | .svFlh o => .w48 (wordLd 0b00001#5 0b001#3 o)
  | .svFlw o => .w48 (wordLd 0b00001#5 0b010#3 o)
  | .svFld o => .w48 (wordLd 0b00001#5 0b011#3 o)
  | .svFlq o => .w48 (wordLd 0b00001#5 0b100#3 o)
  | .svSb o => .w48 (wordSt 0b01000#5 0b000#3 o)
  | .svSh o => .w48 (wordSt 0b01000#5 0b001#3 o)
  | .svSw o => .w48 (wordSt 0b01000#5 0b010#3 o)
  | .svSd o => .w48 (wordSt 0b01000#5 0b011#3 o)
  | .svFsh o => .w48 (wordSt 0b01001#5 0b001#3 o)
  | .svFsw o => .w48 (wordSt 0b01001#5 0b010#3 o)
  | .svFsd o => .w48 (wordSt 0b01001#5 0b011#3 o)
  | .svFsq o => .w48 (wordSt 0b01001#5 0b100#3 o)
  | .svAdd o => .w48 (wordP48r 0b0000000#7 0b000#3 0b01100#5 o)
  | .svSub o => .w48 (wordP48r 0b0100000#7 0b000#3 0b01100#5 o)
  | .svSll o => .w48 (wordP48r 0b0000000#7 0b001#3 0b01100#5 o)
  | .svSlt o => .w48 (wordP48r 0b0000000#7 0b010#3 0b01100#5 o)
  | .svSltu o => .w48 (wordP48r 0b0000000#7 0b011#3 0b01100#5 o)
  | .svXor o => .w48 (wordP48r 0b0000000#7 0b100#3 0b01100#5 o)
  | .svSrl o => .w48 (wordP48r 0b0000000#7 0b101#3 0b01100#5 o)
  | .svSra o => .w48 (wordP48r 0b0100000#7 0b101#3 0b01100#5 o)
  | .svOr o => .w48 (wordP48r 0b0000000#7 0b110#3 0b01100#5 o)
  | .svAnd o => .w48 (wordP48r 0b0000000#7 0b111#3 0b01100#5 o)
  | .svMul o => .w48 (wordP48r 0b0000001#7 0b000#3 0b01100#5 o)
  | .svMulh o => .w48 (wordP48r 0b0000001#7 0b001#3 0b01100#5 o)
  | .svMulhsu o => .w48 (wordP48r 0b0000001#7 0b010#3 0b01100#5 o)
  | .svMulhu o => .w48 (wordP48r 0b0000001#7 0b011#3 0b01100#5 o)
  | .svDiv o => .w48 (wordP48r 0b0000001#7 0b100#3 0b01100#5 o)
  | .svDivu o => .w48 (wordP48r 0b0000001#7 0b101#3 0b01100#5 o)
  | .svRem o => .w48 (wordP48r 0b0000001#7 0b110#3 0b01100#5 o)
  | .svRemu o => .w48 (wordP48r 0b0000001#7 0b111#3 0b01100#5 o)
  | .svAddw o => .w48 (wordP48r 0b0000000#7 0b000#3 0b01110#5 o)
  | .svSubw o => .w48 (wordP48r 0b0100000#7 0b000#3 0b01110#5 o)
  | .svSllw o => .w48 (wordP48r 0b0000000#7 0b001#3 0b01110#5 o)
  | .svSrlw o => .w48 (wordP48r 0b0000000#7 0b101#3 0b01110#5 o)
  | .svSraw o => .w48 (wordP48r 0b0100000#7 0b101#3 0b01110#5 o)
  | .svMulw o => .w48 (wordP48r 0b0000001#7 0b000#3 0b01110#5 o)
  | .svDivw o => .w48 (wordP48r 0b0000001#7 0b100#3 0b01110#5 o)
  | .svDivuw o => .w48 (wordP48r 0b0000001#7 0b101#3 0b01110#5 o)
  | .svRemw o => .w48 (wordP48r 0b0000001#7 0b110#3 0b01110#5 o)
  | .svRemuw o => .w48 (wordP48r 0b0000001#7 0b111#3 0b01110#5 o)
  | .svAddi o => .w48 (wordP48i 0b000#3 0b00100#5 o)
  | .svSlti o => .w48 (wordP48i 0b010#3 0b00100#5 o)
  | .svSltiu o => .w48 (wordP48i 0b011#3 0b00100#5 o)
  | .svXori o => .w48 (wordP48i 0b100#3 0b00100#5 o)
  | .svOri o => .w48 (wordP48i 0b110#3 0b00100#5 o)
  | .svAndi o => .w48 (wordP48i 0b111#3 0b00100#5 o)
  | .svSlli o => .w48 (wordP48sh 0b000000#6 0b001#3 0b00100#5 o)
  | .svSrli o => .w48 (wordP48sh 0b000000#6 0b101#3 0b00100#5 o)
  | .svSrai o => .w48 (wordP48sh 0b010000#6 0b101#3 0b00100#5 o)
  | .svAddiw o => .w48 (wordP48i 0b000#3 0b00110#5 o)
  | .svSlliw o => .w48 (wordP48sh 0b000000#6 0b001#3 0b00110#5 o)
  | .svSrliw o => .w48 (wordP48sh 0b000000#6 0b101#3 0b00110#5 o)
  | .svSraiw o => .w48 (wordP48sh 0b010000#6 0b101#3 0b00110#5 o)
  | .svLui o => .w48 (wordP48u 0b01101#5 o)
  | .svAuipc o => .w48 (wordP48u 0b00101#5 o)
  | .svFaddFmt rm o => .w48 (wordFr 0b00000#5 rm.toBits o)
  | .svFsubFmt rm o => .w48 (wordFr 0b00001#5 rm.toBits o)
  | .svFmulFmt rm o => .w48 (wordFr 0b00010#5 rm.toBits o)
  | .svFdivFmt rm o => .w48 (wordFr 0b00011#5 rm.toBits o)
  | .svFsgnjFmt o => .w48 (wordFr 0b00100#5 0b000#3 o)
  | .svFsgnjnFmt o => .w48 (wordFr 0b00100#5 0b001#3 o)
  | .svFsgnjxFmt o => .w48 (wordFr 0b00100#5 0b010#3 o)
  | .svFminFmt o => .w48 (wordFr 0b00101#5 0b000#3 o)
  | .svFmaxFmt o => .w48 (wordFr 0b00101#5 0b001#3 o)
  | .svFeqFmt o => .w48 (wordFr 0b10100#5 0b010#3 o)
  | .svFltFmt o => .w48 (wordFr 0b10100#5 0b001#3 o)
  | .svFleFmt o => .w48 (wordFr 0b10100#5 0b000#3 o)
  | .svFsqrtFmt rm o => .w48 (wordFi 0b01011#5 0b00000#5 rm.toBits o)
  | .svFcvtWFmt rm o => .w48 (wordFi 0b11000#5 0b00000#5 rm.toBits o)
  | .svFcvtWuFmt rm o => .w48 (wordFi 0b11000#5 0b00001#5 rm.toBits o)
  | .svFcvtLFmt rm o => .w48 (wordFi 0b11000#5 0b00010#5 rm.toBits o)
  | .svFcvtLuFmt rm o => .w48 (wordFi 0b11000#5 0b00011#5 rm.toBits o)
  | .svFcvtFmtW rm o => .w48 (wordFi 0b11010#5 0b00000#5 rm.toBits o)
  | .svFcvtFmtWu rm o => .w48 (wordFi 0b11010#5 0b00001#5 rm.toBits o)
  | .svFcvtFmtL rm o => .w48 (wordFi 0b11010#5 0b00010#5 rm.toBits o)
  | .svFcvtFmtLu rm o => .w48 (wordFi 0b11010#5 0b00011#5 rm.toBits o)
  | .svFmvXFmt o => .w48 (wordFi 0b11100#5 0b00000#5 0b000#3 o)
  | .svFmvFmtX o => .w48 (wordFi 0b11110#5 0b00000#5 0b000#3 o)
  | .svFclassFmt o => .w48 (wordFi 0b11100#5 0b00000#5 0b001#3 o)
  | .svFcvtFmtFmt src rm o => .w48 (wordFi 0b01000#5 (srcSlot src) rm.toBits o)
  | .svFmaddFmt rm o => .w48 (wordFr4 0b10000#5 rm o)
  | .svFmsubFmt rm o => .w48 (wordFr4 0b10001#5 rm o)
  | .svFnmsubFmt rm o => .w48 (wordFr4 0b10010#5 rm o)
  | .svFnmaddFmt rm o => .w48 (wordFr4 0b10011#5 rm o)
  | .setvl _ _ imm => .open_ enc.len imm.insn
  | .lui rd imm => .w32 (wordU imm rd 0b0110111#7)
  | .auipc rd imm => .w32 (wordU imm rd 0b0010111#7)
  | .addi rd rs1 imm => .w32 (wordI imm rs1 0b000#3 rd 0b0010011#7)
  | .slti rd rs1 imm => .w32 (wordI imm rs1 0b010#3 rd 0b0010011#7)
  | .sltiu rd rs1 imm => .w32 (wordI imm rs1 0b011#3 rd 0b0010011#7)
  | .xori rd rs1 imm => .w32 (wordI imm rs1 0b100#3 rd 0b0010011#7)
  | .ori rd rs1 imm => .w32 (wordI imm rs1 0b110#3 rd 0b0010011#7)
  | .andi rd rs1 imm => .w32 (wordI imm rs1 0b111#3 rd 0b0010011#7)
  | .slli rd rs1 shamt => .w32 (wordI (0b000000#6 ++ shamt) rs1 0b001#3 rd 0b0010011#7)
  | .srli rd rs1 shamt => .w32 (wordI (0b000000#6 ++ shamt) rs1 0b101#3 rd 0b0010011#7)
  | .srai rd rs1 shamt => .w32 (wordI (0b010000#6 ++ shamt) rs1 0b101#3 rd 0b0010011#7)
  | .add rd rs1 rs2 => .w32 (wordR 0b0000000#7 rs2 rs1 0b000#3 rd 0b0110011#7)
  | .sub rd rs1 rs2 => .w32 (wordR 0b0100000#7 rs2 rs1 0b000#3 rd 0b0110011#7)
  | .sll rd rs1 rs2 => .w32 (wordR 0b0000000#7 rs2 rs1 0b001#3 rd 0b0110011#7)
  | .slt rd rs1 rs2 => .w32 (wordR 0b0000000#7 rs2 rs1 0b010#3 rd 0b0110011#7)
  | .sltu rd rs1 rs2 => .w32 (wordR 0b0000000#7 rs2 rs1 0b011#3 rd 0b0110011#7)
  | .xor rd rs1 rs2 => .w32 (wordR 0b0000000#7 rs2 rs1 0b100#3 rd 0b0110011#7)
  | .srl rd rs1 rs2 => .w32 (wordR 0b0000000#7 rs2 rs1 0b101#3 rd 0b0110011#7)
  | .sra rd rs1 rs2 => .w32 (wordR 0b0100000#7 rs2 rs1 0b101#3 rd 0b0110011#7)
  | .or rd rs1 rs2 => .w32 (wordR 0b0000000#7 rs2 rs1 0b110#3 rd 0b0110011#7)
  | .and rd rs1 rs2 => .w32 (wordR 0b0000000#7 rs2 rs1 0b111#3 rd 0b0110011#7)
  | .addiw rd rs1 imm => .w32 (wordI imm rs1 0b000#3 rd 0b0011011#7)
  | .slliw rd rs1 shamt => .w32 (wordI (0b0000000#7 ++ shamt) rs1 0b001#3 rd 0b0011011#7)
  | .srliw rd rs1 shamt => .w32 (wordI (0b0000000#7 ++ shamt) rs1 0b101#3 rd 0b0011011#7)
  | .sraiw rd rs1 shamt => .w32 (wordI (0b0100000#7 ++ shamt) rs1 0b101#3 rd 0b0011011#7)
  | .addw rd rs1 rs2 => .w32 (wordR 0b0000000#7 rs2 rs1 0b000#3 rd 0b0111011#7)
  | .subw rd rs1 rs2 => .w32 (wordR 0b0100000#7 rs2 rs1 0b000#3 rd 0b0111011#7)
  | .sllw rd rs1 rs2 => .w32 (wordR 0b0000000#7 rs2 rs1 0b001#3 rd 0b0111011#7)
  | .srlw rd rs1 rs2 => .w32 (wordR 0b0000000#7 rs2 rs1 0b101#3 rd 0b0111011#7)
  | .sraw rd rs1 rs2 => .w32 (wordR 0b0100000#7 rs2 rs1 0b101#3 rd 0b0111011#7)
  | .mul rd rs1 rs2 => .w32 (wordR 0b0000001#7 rs2 rs1 0b000#3 rd 0b0110011#7)
  | .mulh rd rs1 rs2 => .w32 (wordR 0b0000001#7 rs2 rs1 0b001#3 rd 0b0110011#7)
  | .mulhsu rd rs1 rs2 => .w32 (wordR 0b0000001#7 rs2 rs1 0b010#3 rd 0b0110011#7)
  | .mulhu rd rs1 rs2 => .w32 (wordR 0b0000001#7 rs2 rs1 0b011#3 rd 0b0110011#7)
  | .div rd rs1 rs2 => .w32 (wordR 0b0000001#7 rs2 rs1 0b100#3 rd 0b0110011#7)
  | .divu rd rs1 rs2 => .w32 (wordR 0b0000001#7 rs2 rs1 0b101#3 rd 0b0110011#7)
  | .rem rd rs1 rs2 => .w32 (wordR 0b0000001#7 rs2 rs1 0b110#3 rd 0b0110011#7)
  | .remu rd rs1 rs2 => .w32 (wordR 0b0000001#7 rs2 rs1 0b111#3 rd 0b0110011#7)
  | .mulw rd rs1 rs2 => .w32 (wordR 0b0000001#7 rs2 rs1 0b000#3 rd 0b0111011#7)
  | .divw rd rs1 rs2 => .w32 (wordR 0b0000001#7 rs2 rs1 0b100#3 rd 0b0111011#7)
  | .divuw rd rs1 rs2 => .w32 (wordR 0b0000001#7 rs2 rs1 0b101#3 rd 0b0111011#7)
  | .remw rd rs1 rs2 => .w32 (wordR 0b0000001#7 rs2 rs1 0b110#3 rd 0b0111011#7)
  | .remuw rd rs1 rs2 => .w32 (wordR 0b0000001#7 rs2 rs1 0b111#3 rd 0b0111011#7)
  | .lb rd rs1 imm => .w32 (wordI imm rs1 0b000#3 rd 0b0000011#7)
  | .lh rd rs1 imm => .w32 (wordI imm rs1 0b001#3 rd 0b0000011#7)
  | .lw rd rs1 imm => .w32 (wordI imm rs1 0b010#3 rd 0b0000011#7)
  | .ld rd rs1 imm => .w32 (wordI imm rs1 0b011#3 rd 0b0000011#7)
  | .lbu rd rs1 imm => .w32 (wordI imm rs1 0b100#3 rd 0b0000011#7)
  | .lhu rd rs1 imm => .w32 (wordI imm rs1 0b101#3 rd 0b0000011#7)
  | .lwu rd rs1 imm => .w32 (wordI imm rs1 0b110#3 rd 0b0000011#7)
  | .sb rs2 rs1 imm => .w32 (wordS imm rs2 rs1 0b000#3 0b0100011#7)
  | .sh rs2 rs1 imm => .w32 (wordS imm rs2 rs1 0b001#3 0b0100011#7)
  | .sw rs2 rs1 imm => .w32 (wordS imm rs2 rs1 0b010#3 0b0100011#7)
  | .sd rs2 rs1 imm => .w32 (wordS imm rs2 rs1 0b011#3 0b0100011#7)
  | .faddFmt fmt rm rd rs1 rs2 => .w32 (wordF 0b00000#5 fmt rs2 rs1 rm.toBits rd)
  | .fsubFmt fmt rm rd rs1 rs2 => .w32 (wordF 0b00001#5 fmt rs2 rs1 rm.toBits rd)
  | .fmulFmt fmt rm rd rs1 rs2 => .w32 (wordF 0b00010#5 fmt rs2 rs1 rm.toBits rd)
  | .fdivFmt fmt rm rd rs1 rs2 => .w32 (wordF 0b00011#5 fmt rs2 rs1 rm.toBits rd)
  | .fsqrtFmt fmt rm rd rs1 => .w32 (wordF 0b01011#5 fmt 0b00000#5 rs1 rm.toBits rd)
  | .fsgnjFmt fmt rd rs1 rs2 => .w32 (wordF 0b00100#5 fmt rs2 rs1 0b000#3 rd)
  | .fsgnjnFmt fmt rd rs1 rs2 => .w32 (wordF 0b00100#5 fmt rs2 rs1 0b001#3 rd)
  | .fsgnjxFmt fmt rd rs1 rs2 => .w32 (wordF 0b00100#5 fmt rs2 rs1 0b010#3 rd)
  | .fminFmt fmt rd rs1 rs2 => .w32 (wordF 0b00101#5 fmt rs2 rs1 0b000#3 rd)
  | .fmaxFmt fmt rd rs1 rs2 => .w32 (wordF 0b00101#5 fmt rs2 rs1 0b001#3 rd)
  | .feqFmt fmt rd rs1 rs2 => .w32 (wordF 0b10100#5 fmt rs2 rs1 0b010#3 rd)
  | .fltFmt fmt rd rs1 rs2 => .w32 (wordF 0b10100#5 fmt rs2 rs1 0b001#3 rd)
  | .fleFmt fmt rd rs1 rs2 => .w32 (wordF 0b10100#5 fmt rs2 rs1 0b000#3 rd)
  | .fcvtWFmt fmt rm rd rs1 => .w32 (wordF 0b11000#5 fmt 0b00000#5 rs1 rm.toBits rd)
  | .fcvtWuFmt fmt rm rd rs1 => .w32 (wordF 0b11000#5 fmt 0b00001#5 rs1 rm.toBits rd)
  | .fcvtLFmt fmt rm rd rs1 => .w32 (wordF 0b11000#5 fmt 0b00010#5 rs1 rm.toBits rd)
  | .fcvtLuFmt fmt rm rd rs1 => .w32 (wordF 0b11000#5 fmt 0b00011#5 rs1 rm.toBits rd)
  | .fcvtFmtW fmt rm rd rs1 => .w32 (wordF 0b11010#5 fmt 0b00000#5 rs1 rm.toBits rd)
  | .fcvtFmtWu fmt rm rd rs1 => .w32 (wordF 0b11010#5 fmt 0b00001#5 rs1 rm.toBits rd)
  | .fcvtFmtL fmt rm rd rs1 => .w32 (wordF 0b11010#5 fmt 0b00010#5 rs1 rm.toBits rd)
  | .fcvtFmtLu fmt rm rd rs1 => .w32 (wordF 0b11010#5 fmt 0b00011#5 rs1 rm.toBits rd)
  | .fcvtFmtFmt fmt src rm rd rs1 => .w32 (wordF 0b01000#5 fmt (srcSlot src) rs1 rm.toBits rd)
  | .fmvXFmt fmt rd rs1 => .w32 (wordF 0b11100#5 fmt 0b00000#5 rs1 0b000#3 rd)
  | .fmvFmtX fmt rd rs1 => .w32 (wordF 0b11110#5 fmt 0b00000#5 rs1 0b000#3 rd)
  | .fclassFmt fmt rd rs1 => .w32 (wordF 0b11100#5 fmt 0b00000#5 rs1 0b001#3 rd)
  | .fmaddFmt fmt rm rd rs1 rs2 rs3 => .w32 (wordR4 rs3 fmt rs2 rs1 rm rd 0b1000011#7)
  | .fmsubFmt fmt rm rd rs1 rs2 rs3 => .w32 (wordR4 rs3 fmt rs2 rs1 rm rd 0b1000111#7)
  | .fnmsubFmt fmt rm rd rs1 rs2 rs3 => .w32 (wordR4 rs3 fmt rs2 rs1 rm rd 0b1001011#7)
  | .fnmaddFmt fmt rm rd rs1 rs2 rs3 => .w32 (wordR4 rs3 fmt rs2 rs1 rm rd 0b1001111#7)
  | .flw rd rs1 imm => .w32 (wordI imm rs1 0b010#3 rd 0b0000111#7)
  | .fld rd rs1 imm => .w32 (wordI imm rs1 0b011#3 rd 0b0000111#7)
  | .flq rd rs1 imm => .w32 (wordI imm rs1 0b100#3 rd 0b0000111#7)
  | .fsw rs2 rs1 imm => .w32 (wordS imm rs2 rs1 0b010#3 0b0100111#7)
  | .fsd rs2 rs1 imm => .w32 (wordS imm rs2 rs1 0b011#3 0b0100111#7)
  | .fsq rs2 rs1 imm => .w32 (wordS imm rs2 rs1 0b100#3 0b0100111#7)
  | .jal rd imm => .w32 (wordJ imm rd)
  | .jalr rd rs1 imm => .w32 (wordI imm rs1 0b000#3 rd 0b1100111#7)
  | .beq rs1 rs2 imm => .w32 (wordB imm rs2 rs1 0b000#3)
  | .bne rs1 rs2 imm => .w32 (wordB imm rs2 rs1 0b001#3)
  | .blt rs1 rs2 imm => .w32 (wordB imm rs2 rs1 0b100#3)
  | .bge rs1 rs2 imm => .w32 (wordB imm rs2 rs1 0b101#3)
  | .bltu rs1 rs2 imm => .w32 (wordB imm rs2 rs1 0b110#3)
  | .bgeu rs1 rs2 imm => .w32 (wordB imm rs2 rs1 0b111#3)
  | .fence rd rs1 imm => .w32 (wordI imm rs1 0b000#3 rd 0b0001111#7)
  | .fenceI rd rs1 imm => .w32 (wordI imm rs1 0b001#3 rd 0b0001111#7)
  | .ecall => .w32 (wordI 0b000000000000#12 0#5 0b000#3 0#5 0b1110011#7)
  | .ebreak => .w32 (wordI 0b000000000001#12 0#5 0b000#3 0#5 0b1110011#7)
  | .csrrw rd rs1 csr => .w32 (wordI csr rs1 0b001#3 rd 0b1110011#7)
  | .csrrs rd rs1 csr => .w32 (wordI csr rs1 0b010#3 rd 0b1110011#7)
  | .csrrc rd rs1 csr => .w32 (wordI csr rs1 0b011#3 rd 0b1110011#7)
  | .csrrwi rd uimm csr => .w32 (wordI csr uimm 0b101#3 rd 0b1110011#7)
  | .csrrsi rd uimm csr => .w32 (wordI csr uimm 0b110#3 rd 0b1110011#7)
  | .csrrci rd uimm csr => .w32 (wordI csr uimm 0b111#3 rd 0b1110011#7)
  | .flh rd rs1 imm => .w32 (wordI imm rs1 0b001#3 rd 0b0000111#7)
  | .fsh rs2 rs1 imm => .w32 (wordS imm rs2 rs1 0b001#3 0b0100111#7)
  | .mret => .w32 (wordI 0b001100000010#12 0#5 0b000#3 0#5 0b1110011#7)

/-- The word of an instruction as one number. -/
def encodeWord (enc : SetvlEncoding) (i : Instr) : Nat := (codeWord enc i).value

/-- The bytes of an instruction in memory order (rule R50). -/
def encode (enc : SetvlEncoding) (i : Instr) : List Byte := leBytes (codeWord enc i).len (codeWord enc i).value

/-! ## Signedness (rule R90) -/

/-- Signedness of an element type (rules R89, R90). -/
inductive Signedness where
  | unsigned | signed
  deriving DecidableEq, Repr

/-- Step 3 of rule R90: the Signedness that a field of the base instruction encodes. It is funct3 bit 2 of an integer load
(rule R161) and funct5 bit 0 of a conversion between FP and integer (rule R262); no other base instruction has one. -/
def encodedSignedness (w : BitVec 48) : Option Signedness :=
  match (w.extractLsb' 18 5).toNat, (w.extractLsb' 43 5).toNat with
  | 0b00000, _ => some (if bitAt w 30 then .unsigned else .signed)
  | 0b10100, 0b11000 | 0b10100, 0b11010 => some (if bitAt w 36 then .unsigned else .signed)
  | _, _ => none

/-- The Signedness decision procedure (rule R90) on a 48-bit instruction: OP and OP-IMM, OP-32 and OP-IMM-32, an encoded
Signedness, else Unsigned, the first that applies. No result depends on it (rules R91, R161, R192, R262, D11). -/
def signednessOf (w : BitVec 48) : Signedness :=
  match (w.extractLsb' 18 5).toNat with
  | 0b01100 | 0b00100 => .unsigned
  | 0b01110 | 0b00110 => .signed
  | _ => (encodedSignedness w).getD .unsigned

/-- The Signedness of a prefixed instruction; `none` for an instruction that has no element type. -/
def Instr.signedness (enc : SetvlEncoding) (i : Instr) : Option Signedness :=
  match codeWord enc i with
  | .w48 w => some (signednessOf w)
  | .w32 _ => none
  | .open_ _ _ => none

end Sys2Proof
end

