-- ==== Sys2Proof/Machine/State.lean ====
section
/-! DEFINITION. The state of the machine as plain data, its reasons to stop, and the state after reset. Everything the
spec makes state is here (rules R13, R20, R24, R30, R31, R34, R38, R39, R390); `cfg` is the model's own field. What may
be read and written, and how, is Machine/Ops.lean. -/

namespace Sys2Proof.Machine

/-- Bytes by number, as (number, byte) pairs. In canonical form (`ByteMap.wf`, Machine/Ops.lean) the numbers rise
strictly and no byte is the zero that an unlisted number reads as. Memory (rule R39) and the two register files seen as
byte arrays (rule R26) are kept so. -/
abbrev ByteMap := List Host.Cell

/-- Byte-addressed memory (rule R39). -/
abbrev Memory := ByteMap

/-- The register files (rules R20, R24): X and FP of rule R9. -/
inductive RegFile where
  | x | fp
  deriving DecidableEq, Repr

/-- The synchronous exceptions of rule R383. -/
inductive Exc where
  | instructionAddressMisaligned
  | instructionAccessFault
  | illegalInstruction
  | breakpoint
  | loadAddressMisaligned
  | loadAccessFault
  | storeAddressMisaligned
  | storeAccessFault
  | environmentCall
  deriving DecidableEq, Repr

/-- The CSRs an instruction can name (rules R368, R390). -/
inductive Csr where
  | vl | vstart | fflags | frm | fcsr | mstatus | mtvec | mscratch | mepc | mcause | mtval
  deriving DecidableEq, Repr

/-- The whole state of the machine. -/
structure State where
  /-- The parameters of rule R6: the model's own field; no step changes it. -/
  cfg : Config
  /-- The program counter (rule R34), an XLEN-bit value. -/
  pc : Word
  /-- x0 .. x127 as one byte array (rules R20, R26); the bytes of x0 are never listed (rule R21). -/
  xregs : ByteMap
  /-- f0 .. f127 as one byte array (rules R24, R26). -/
  fregs : ByteMap
  /-- VL (rule R30). -/
  vl : Nat
  /-- Vstart (rule R31). -/
  vstart : Nat
  /-- Accrued FP flags NV, DZ, OF, UF, NX in bits 4 to 0 (rule R38); `fcsr` bits 4:0. -/
  fflags : BitVec 5
  /-- Dynamic rounding mode (rule R38); `fcsr` bits 7:5. -/
  frm : BitVec 3
  /-- Memory (rule R39). -/
  mem : Memory
  /-- Trap vector base, an XLEN-bit value (rule R390). -/
  mtvec : Word
  /-- Saved pc, an XLEN-bit value (rule R390). -/
  mepc : Word
  /-- Trap cause, an XLEN-bit value (rule R390). -/
  mcause : Word
  /-- Trap value, an XLEN-bit value (rule R390). -/
  mtval : Word
  /-- Scratch register of the trap handler, an XLEN-bit value (rule R390). -/
  mscratch : Word
  /-- `mstatus.MIE`, bit 3 (rule R390). -/
  mie : Bool
  /-- `mstatus.MPIE`, bit 7 (rule R390). -/
  mpie : Bool
  deriving DecidableEq, Repr

/-- Why the machine stops: the model faults of rule R384, and the end of a run under `TRAP_MODEL = stop`. All are the
spec's own; each is safe, because a claim about a run that reaches one cannot be proved of a machine that goes on. -/
inductive Fault where
  /-- Raised by any `raise` when `TRAP_MODEL = stop` (rules R381, R414): exception, info, and the state handed to the
  environment, whose pc is the address of the trapping instruction. Safe: the spec ends the run here. -/
  | trapped (e : Exc) (info : Nat) (final : State)
  /-- Raised by an element access past register 127 (rule R29b). Safe: the spec gives no meaning. -/
  | registerOverrun (file : RegFile) (reg : Nat)
  /-- Raised by a CSR write of VL > XLEN or Vstart >= XLEN (rule R33). Safe: the spec gives no meaning. -/
  | illegalCsrValue (csr : Csr) (value : Nat)
  /-- Raised by a CSR instruction that names any other address (rule R368, U32). Safe: the spec gives no meaning. -/
  | unmodelledCsr (addr : BitVec 12)
  /-- Raised by the fetch of an instruction that wraps past the top of the address space (rule R36). Safe. -/
  | fetchWrap (pc : Word)
  /-- Raised by a store that overlaps the program text (rule R64). Safe: the spec refuses self-modifying code. -/
  | storeToText (addr : Nat)
  deriving DecidableEq, Repr

/-- Why the model refuses. -/
inductive Refusal where
  /-- An instruction whose arm of `exec` has no meaning yet, by its mnemonic. Safe. -/
  | notModelled (mnemonic : String)
  /-- A 16-bit RVC parcel when `HAS_C` holds: the spec does not transcribe the expansion (rules R321, R596, U36).
  Safe: nothing can be proved of the step. -/
  | compressedForm (parcel : Nat)
  deriving DecidableEq, Repr

/-- What a step answers. -/
abbrev Out := Host.Outcome State Fault Refusal

/-- The machine right after reset (rules R41, R390, R410, R411): pc at `RESET_PC`, Vstart = 0 and MIE = 0 as the spec
says. Every register and control register to which the spec gives no value is 0: DESIGN CHOICE, unsafe (log entry 1).
Memory lists nothing, so every byte reads 0: DESIGN CHOICE, unsafe (log entry 4). -/
def State.reset : State :=
  { cfg := Config.atReset, pc := Config.atReset.resetPc, xregs := [], fregs := [], vl := 0, vstart := 0, fflags := 0,
    frm := 0, mem := [], mtvec := 0, mepc := 0, mcause := 0, mtval := 0, mscratch := 0, mie := false, mpie := false }

end Sys2Proof.Machine
end

