-- ==== Sys2Proof/Machine/Ops.lean ====
section
/-! DEFINITION. The named operations on the state: byte maps, the two register files (rules R21, R26 to R29), memory
(rules R51 to R58, R64), the program counter (rules R35, R36), taking an exception (rules R381, R390) and returning from
one (rule R390), and the CSRs (rules R33, R368, R390). Each reads or writes through here and nowhere else. -/

namespace Sys2Proof.Machine

/-! ## Byte maps -/

/-- The byte at number `a`; an unlisted byte is 0 (memory: log entry 4; registers: log entry 1). -/
def ByteMap.read : ByteMap → Nat → Byte
  | [], _ => 0#8
  | (k, v) :: m, a => if k = a then v else ByteMap.read m a

/-- The map without its entries at `a`. -/
def ByteMap.drop : ByteMap → Nat → ByteMap
  | [], _ => []
  | (k, v) :: m, a => if k = a then ByteMap.drop m a else (k, v) :: ByteMap.drop m a

/-- The map with an entry put before the first larger number. -/
def ByteMap.put : ByteMap → Nat → Byte → ByteMap
  | [], a, b => [(a, b)]
  | (k, v) :: m, a, b => if a < k then (a, b) :: (k, v) :: m else (k, v) :: ByteMap.put m a b

/-- The map with byte `a` set to `b`; writing the value an unlisted byte reads as removes the entry. -/
def ByteMap.write (m : ByteMap) (a : Nat) (b : Byte) : ByteMap :=
  if b = 0#8 then ByteMap.drop m a else ByteMap.put (ByteMap.drop m a) a b

/-- The canonical form: numbers strictly rising, no entry equal to what an unlisted byte reads as. -/
def ByteMap.wf : ByteMap → Bool
  | [] => true
  | (k, v) :: m => v != 0#8 && m.all (fun c => decide (k < c.1)) && ByteMap.wf m

/-- Memory is in its canonical form. -/
def Memory.wf (m : Memory) : Bool := ByteMap.wf m

/-- The `n` bytes numbered `num 0`, .., `num (n - 1)` as one value, `num 0` the least significant (rules R51, R52). -/
def ByteMap.readLe (m : ByteMap) (num : Nat → Nat) : Nat → Nat
  | 0 => 0
  | n + 1 => ByteMap.readLe m num n + (ByteMap.read m (num n)).toNat * 2 ^ (8 * n)

/-- Writes the `n` low bytes of `v` to the bytes numbered `num 0`, .., `num (n - 1)`, in that order (rules R51, R52). -/
def ByteMap.writeLe (m : ByteMap) (num : Nat → Nat) (v : Nat) : Nat → ByteMap
  | 0 => m
  | n + 1 => ByteMap.write (ByteMap.writeLe m num v n) (num n) (BitVec.ofNat 8 (v / 2 ^ (8 * n)))

/-! ## Updates of one field -/

/-- The state with another pc. -/
def State.setPc (s : State) (v : Word) : State := { s with pc := v }

/-- The state with other integer-register bytes. -/
def State.setXregs (s : State) (m : ByteMap) : State := { s with xregs := m }

/-- The state with other FP-register bytes. -/
def State.setFregs (s : State) (m : ByteMap) : State := { s with fregs := m }

/-- The state with another VL. -/
def State.setVl (s : State) (v : Nat) : State := { s with vl := v }

/-- The state with another Vstart. -/
def State.setVstart (s : State) (v : Nat) : State := { s with vstart := v }

/-- The state with other accrued FP flags. -/
def State.setFflags (s : State) (v : BitVec 5) : State := { s with fflags := v }

/-- The state with another dynamic rounding mode. -/
def State.setFrm (s : State) (v : BitVec 3) : State := { s with frm := v }

/-- The state with another memory. -/
def State.setMem (s : State) (m : Memory) : State := { s with mem := m }

/-- The state with another trap vector. -/
def State.setMtvec (s : State) (v : Word) : State := { s with mtvec := v }

/-- The state with another saved pc; bit 0 of `mepc` is always 0 (rule R390). -/
def State.setMepc (s : State) (v : Word) : State := { s with mepc := v &&& ~~~1#64 }

/-- The state with another trap cause. -/
def State.setMcause (s : State) (v : Word) : State := { s with mcause := v }

/-- The state with another trap value. -/
def State.setMtval (s : State) (v : Word) : State := { s with mtval := v }

/-- The state with another scratch value. -/
def State.setMscratch (s : State) (v : Word) : State := { s with mscratch := v }

/-- The state with other interrupt-enable bits. -/
def State.setStatus (s : State) (mie mpie : Bool) : State := { s with mie := mie, mpie := mpie }

/-! ## Register files (rules R21, R26 to R29) -/

/-- RB(F) of rule R26: bytes of one register. -/
def State.rb (s : State) : RegFile → Nat
  | .x => s.cfg.xbits / 8
  | .fp => s.cfg.fbits / 8

/-- The first byte number that a file really holds: the bytes of x0 are hardwired (rules R21, R29a). -/
def State.firstByte (s : State) : RegFile → Nat
  | .x => s.cfg.xbits / 8
  | .fp => 0

/-- The byte array of a register file (rule R26). -/
def State.regs (s : State) : RegFile → ByteMap
  | .x => s.xregs
  | .fp => s.fregs

/-- The state with another byte array. -/
def State.setRegs (s : State) : RegFile → ByteMap → State
  | .x, m => s.setXregs m
  | .fp, m => s.setFregs m

/-- `ByteRead` of rule R27 without its overrun check: bytes of x0 read 0. -/
def State.regByte (s : State) (f : RegFile) (b : Nat) : Byte :=
  if b < s.firstByte f then 0#8 else ByteMap.read (s.regs f) b

/-- `ByteWrite` of rule R28 without its overrun check: writes to x0 are discarded. -/
def State.setRegByte (s : State) (f : RegFile) (b : Nat) (v : Byte) : State :=
  if b < s.firstByte f then s else s.setRegs f (ByteMap.write (s.regs f) b v)

/-- The value of the `n` register bytes from byte number `b0`, little-endian (rule R26). -/
def State.regBytes (s : State) (f : RegFile) (b0 : Nat) : Nat → Nat
  | 0 => 0
  | n + 1 => s.regBytes f b0 n + (s.regByte f (b0 + n)).toNat * 2 ^ (8 * n)

/-- Writes the `n` low bytes of `v` from byte number `b0` on, in ascending order (rule R28). -/
def State.setRegBytes (s : State) (f : RegFile) (b0 v : Nat) : Nat → State
  | 0 => s
  | n + 1 => (s.setRegBytes f b0 v n).setRegByte f (b0 + n) (BitVec.ofNat 8 (v / 2 ^ (8 * n)))

/-- Byte number of element `k` of width `w` of the operand that starts at register `n` (rule R26). -/
def State.elemByte (s : State) (f : RegFile) (n k w : Nat) : Nat := n * s.rb f + k * (w / 8)

/-- `ElemRead` of rule R27 without its overrun check. -/
def State.elemGet (s : State) (f : RegFile) (n k w : Nat) : BitVec w :=
  BitVec.ofNat w (s.regBytes f (s.elemByte f n k w) (w / 8))

/-- `ElemWrite` of rule R28 without its overrun check: exactly the bytes of the element change. -/
def State.elemPut (s : State) (f : RegFile) (n k w : Nat) (v : BitVec w) : State :=
  s.setRegBytes f (s.elemByte f n k w) v.toNat (w / 8)

/-- Whether the element lies in registers 0 to 127 (rule R29b). -/
def State.elemFits (s : State) (f : RegFile) (n k w : Nat) : Bool :=
  decide (s.elemByte f n k w + w / 8 ≤ 128 * s.rb f)

/-- The whole integer register `r`, at `w` = XLEN (rules R9, R21). -/
def State.getX (s : State) (w : Nat) (r : Nat) : BitVec w := s.elemGet .x r 0 w

/-- Writes the whole integer register `r`, at `w` = XLEN; register 0 discards (rules R9, R21). -/
def State.putX (s : State) (w : Nat) (r : Nat) (v : BitVec w) : State := s.elemPut .x r 0 w v

/-- The whole FP register `r`, at `w` = FLEN (rule R9). -/
def State.getF (s : State) (w : Nat) (r : Nat) : BitVec w := s.elemGet .fp r 0 w

/-- Writes the whole FP register `r`, at `w` = FLEN (rule R9). -/
def State.putF (s : State) (w : Nat) (r : Nat) (v : BitVec w) : State := s.elemPut .fp r 0 w v

/-! ## Memory (rules R51 to R58, R64) -/

/-- The kinds of access (rule R58). -/
inductive Access where
  | load | store | fetch
  deriving DecidableEq, Repr

/-- The size of the address space, 2^XLEN (rules R9, R52). -/
def State.span (s : State) : Nat := 2 ^ s.cfg.xbits

/-- Address `a + m`, modulo 2^XLEN (rules R9, R52). -/
def State.wrapAddr (s : State) (a m : Nat) : Nat := (a + m) % s.span

/-- One byte of memory (rule R52). -/
def State.byteAt (s : State) (a : Nat) : Byte := ByteMap.read s.mem a

/-- `MemRead` of rule R52 without its checks. -/
def State.memGet (s : State) (a w : Nat) : BitVec w :=
  BitVec.ofNat w (ByteMap.readLe s.mem (s.wrapAddr a) (w / 8))

/-- `MemWrite` of rule R52 without its checks. -/
def State.memPut (s : State) (a w : Nat) (v : BitVec w) : State :=
  s.setMem (ByteMap.writeLe s.mem (s.wrapAddr a) v.toNat (w / 8))

/-- Whether a region covers address `a` for this kind of access (rule R58). -/
def Region.admits (r : Region) (a : Nat) (k : Access) : Bool :=
  decide (r.base ≤ a) && decide (a < r.base + r.size) &&
    match k with
    | .load => r.load
    | .store => r.store
    | .fetch => r.fetch

/-- `mem_admit(addr, n, kind)` of rule R58: every byte is backed by some region. -/
def State.admits (s : State) (a n : Nat) (k : Access) : Bool :=
  (List.range n).all (fun m => s.cfg.backed.any (fun r => Region.admits r (s.wrapAddr a m) k))

/-- The misaligned exception of each kind (rule R55; fetch addresses are checked by rule R54). -/
def Access.misaligned : Access → Exc
  | .load => .loadAddressMisaligned
  | .store => .storeAddressMisaligned
  | .fetch => .instructionAddressMisaligned

/-- The access fault of each kind (rule R58). -/
def Access.accessFault : Access → Exc
  | .load => .loadAccessFault
  | .store => .storeAccessFault
  | .fetch => .instructionAccessFault

/-- `CheckAccess` of rule R58: the alignment rule R55 first, then `mem_admit`. `none` where the access may proceed. -/
def State.checkAccess (s : State) (a n : Nat) (k : Access) : Option Exc :=
  if s.cfg.misaligned = .trap ∧ a % n ≠ 0 then some k.misaligned
  else if s.admits a n k then none
  else some k.accessFault

/-- Whether a store of `n` bytes at `a` overlaps the program text (rule R64). -/
def State.hitsText (s : State) (a n : Nat) : Bool :=
  (List.range n).any (fun m =>
    s.cfg.text.any (fun t => decide (t.base ≤ s.wrapAddr a m) && decide (s.wrapAddr a m < t.base + t.size)))

/-! ## Program counter (rules R34 to R36) -/

/-- The state at the pc `v`, an XLEN-bit value. -/
def State.goto (s : State) (w : Nat) (v : BitVec w) : State := s.setPc (BitVec.ofNat 64 v.toNat)

/-- The pc as an XLEN-bit value, `w` = XLEN. -/
def State.pcAt (s : State) (w : Nat) : BitVec w := BitVec.ofNat w s.pc.toNat

/-- pc + n modulo 2^XLEN (rules R35, R36, R333). -/
def State.advance (s : State) (n : Nat) : State :=
  s.goto s.cfg.xbits (s.pcAt s.cfg.xbits + BitVec.ofNat s.cfg.xbits n)

/-! ## Taking an exception (rules R381, R383, R390) and returning from one -/

/-- The cause codes of rule R383; there is one mode, machine mode, so an environment call is 11. -/
def Exc.code : Exc → Nat
  | .instructionAddressMisaligned => 0
  | .instructionAccessFault => 1
  | .illegalInstruction => 2
  | .breakpoint => 3
  | .loadAddressMisaligned => 4
  | .loadAccessFault => 5
  | .storeAddressMisaligned => 6
  | .storeAccessFault => 7
  | .environmentCall => 11

/-- Trap entry of rule R390: `mepc` takes the address of the trapping instruction, `mcause` the code, `mtval` the low
XLEN bits of `info`; MPIE takes MIE and MIE becomes 0; the pc goes to `mtvec` with its low two bits cleared. -/
def State.enterTrap (s : State) (e : Exc) (info : Nat) : State :=
  ((((s.setMepc s.pc).setMcause (BitVec.ofNat 64 e.code)).setMtval (BitVec.ofNat 64 (info % s.span))).setStatus
    false s.mie).setPc (s.mtvec &&& ~~~3#64)

/-- `raise E(info)` (rule R381), `s` being the state with the effects that rule R381 lets stand: under
`TRAP_MODEL = stop` the run ends, under `mmode` the trap is entered. -/
def raise (e : Exc) (info : Nat) (s : State) : Out :=
  match s.cfg.trapModel with
  | .stop => .fault (.trapped e info s)
  | .mmode => .next (s.enterTrap e info)

/-- `mepc` as it is read: bit 0 always reads 0 (rule R390). -/
def State.mepcValue (s : State) : Word := s.mepc &&& ~~~1#64

/-- Trap return, MRET of rule R390: pc takes `mepc`, MIE takes MPIE, MPIE becomes 1. -/
def State.trapReturn (s : State) : State := (s.setStatus s.mpie true).setPc s.mepcValue

/-- Runs `k` where the instruction is one of this machine; raises IllegalInstruction with the instruction word
otherwise (rules R99, R100, R385, R386). The word is the encoding of `i`, which holds every bit of what was fetched (log
entry 9). -/
def legally (ok : Bool) (i : Instr) (s : State) (k : Out) : Out :=
  if ok then k else raise .illegalInstruction (encodeWord s.cfg.setvlEnc i) s

/-! ## CSRs (rules R33, R368, R390) -/

/-- The CSR at an address: VL and Vstart at the parameters' addresses, the FP CSRs when FLEN > 0, the machine-mode CSRs
under `TRAP_MODEL = mmode`. -/
def csrAt (c : Config) (a : BitVec 12) : Option Csr :=
  if a = c.csrVl then some .vl
  else if a = c.csrVstart then some .vstart
  else if c.fbits ≠ 0 ∧ a = 0x001#12 then some .fflags
  else if c.fbits ≠ 0 ∧ a = 0x002#12 then some .frm
  else if c.fbits ≠ 0 ∧ a = 0x003#12 then some .fcsr
  else if c.trapModel = .mmode ∧ a = 0x300#12 then some .mstatus
  else if c.trapModel = .mmode ∧ a = 0x305#12 then some .mtvec
  else if c.trapModel = .mmode ∧ a = 0x340#12 then some .mscratch
  else if c.trapModel = .mmode ∧ a = 0x341#12 then some .mepc
  else if c.trapModel = .mmode ∧ a = 0x342#12 then some .mcause
  else if c.trapModel = .mmode ∧ a = 0x343#12 then some .mtval
  else none

/-- `CsrRead` (rule R368): the zero-extended value. -/
def State.csrGet (s : State) : Csr → Nat
  | .vl => s.vl
  | .vstart => s.vstart
  | .fflags => s.fflags.toNat
  | .frm => s.frm.toNat
  | .fcsr => (s.frm ++ s.fflags).toNat
  | .mstatus => (if s.mie then 8 else 0) + (if s.mpie then 128 else 0)
  | .mtvec => s.mtvec.toNat
  | .mscratch => s.mscratch.toNat
  | .mepc => s.mepcValue.toNat
  | .mcause => s.mcause.toNat
  | .mtval => s.mtval.toNat

/-- Whether `CsrWrite` has a meaning for the value: VL <= XLEN and Vstart < XLEN (rules R30, R31, R33). -/
def csrLegal (c : Config) : Csr → Nat → Bool
  | .vl, v => decide (v ≤ c.xbits)
  | .vstart, v => decide (v < c.xbits)
  | .fflags, _ | .frm, _ | .fcsr, _ | .mstatus, _ | .mtvec, _ | .mscratch, _ | .mepc, _ | .mcause, _ | .mtval, _ => true

/-- `CsrWrite` of a legal value (rules R368, R390): the CSR's implemented bits. -/
def State.csrPut (s : State) : Csr → Nat → State
  | .vl, v => s.setVl v
  | .vstart, v => s.setVstart v
  | .fflags, v => s.setFflags (BitVec.ofNat 5 v)
  | .frm, v => s.setFrm (BitVec.ofNat 3 v)
  | .fcsr, v => (s.setFflags (BitVec.ofNat 5 v)).setFrm (BitVec.ofNat 3 (v / 32))
  | .mstatus, v => s.setStatus (v.testBit 3) (v.testBit 7)
  | .mtvec, v => s.setMtvec (BitVec.ofNat 64 v)
  | .mscratch, v => s.setMscratch (BitVec.ofNat 64 v)
  | .mepc, v => s.setMepc (BitVec.ofNat 64 v)
  | .mcause, v => s.setMcause (BitVec.ofNat 64 v)
  | .mtval, v => s.setMtval (BitVec.ofNat 64 v)

end Sys2Proof.Machine
end

