-- ==== Sys2Proof/Machine/Operands.lean ====
section
/-! DEFINITION. Operand forms: element widths (rules R89, R108, R109, R133, R161, R260), the number of elements of a
sub-vector (rule R86), register numbers (rules R82, R83), the operand descriptor and its elements (rules R131, R27,
R28), immediates (rules R94, R332), predicates (rule R139) and effective addresses (rules R162, R163). -/

namespace Sys2Proof

/-- Element width in bits of an integer element type (rules R89, R91). -/
def IType.width (t : IType) (xlen : Nat) : Nat :=
  match t with
  | .b => 8
  | .h => 16
  | .w => 32
  | .xl => xlen

/-- Width in bits of an FP format (rules R109, R260). -/
def Fmt.width : Fmt → Nat
  | .s => 32
  | .d => 64
  | .h => 16
  | .q => 128

/-- Elements of a sub-vector (rule R86). -/
def SvLen.count : SvLen → Nat
  | .one => 1
  | .two => 2
  | .three => 3
  | .four => 4

/-- The register a predicate names (rule R88). -/
def PredReg.num : PredReg → Nat
  | .x9 => 9
  | .x10 => 10
  | .x11 => 11

end Sys2Proof

namespace Sys2Proof.Machine

/-- The actual register number of a 6-bit field (rules R82, R83): zero-extended when the operand is scalar; for a
vector, bit 6 is the field's bit 0, bits 5:1 are its bits 5:1 and bit 0 is 0. -/
def regNum (r : BitVec 6) (isV : Bool) : Nat :=
  if isV then r.toNat % 2 * 64 + r.toNat / 2 * 2 else r.toNat

/-- An operand descriptor of rule R131, but for its element width. -/
structure Opd where
  file : RegFile
  num  : Nat
  isV  : Bool
  deriving DecidableEq, Repr

/-- An integer-file operand of class `v` (rules R83, R84). -/
def xOpd (r : BitVec 6) (v : Bool) : Opd := { file := .x, num := regNum r v, isV := v }

/-- An FP-file operand of class `v` (rules R83, R84). -/
def fOpd (r : BitVec 6) (v : Bool) : Opd := { file := .fp, num := regNum r v, isV := v }

/-- Element number of element `j` of sub-vector `i` (rule R131). -/
def Opd.index (o : Opd) (svlen i j : Nat) : Nat := (if o.isV then i * svlen else 0) + j

/-- Element `j` of sub-vector `i` (rules R27, R131). -/
def Opd.get (o : Opd) (s : State) (w svlen i j : Nat) : BitVec w := s.elemGet o.file o.num (o.index svlen i j) w

/-- Writes element `j` of sub-vector `i` (rules R28, R131). -/
def Opd.put (o : Opd) (s : State) (w svlen i j : Nat) (v : BitVec w) : State :=
  s.elemPut o.file o.num (o.index svlen i j) w v

/-- Whether element `j` of sub-vector `i` lies in the register file (rule R29b). -/
def Opd.fits (o : Opd) (s : State) (w svlen i j : Nat) : Bool := s.elemFits o.file o.num (o.index svlen i j) w

/-- The overrun of rules R27 and R28, if element `j` of sub-vector `i` has one. -/
def Opd.overrun (o : Opd) (s : State) (w svlen i j : Nat) : Option Fault :=
  if o.fits s w svlen i j then none
  else some (.registerOverrun o.file (s.elemByte o.file o.num (o.index svlen i j) w / s.rb o.file))

/-! ## Immediates (rules R94, R332), at `w` = XLEN -/

/-- I and S immediates. -/
def immIS (w : Nat) (imm : BitVec 12) : BitVec w := imm.signExtend w

/-- B immediates: the field holds imm[12:1]. -/
def immBranch (w : Nat) (imm : BitVec 12) : BitVec w := (imm ++ 0#1).signExtend w

/-- J immediates: the field holds imm[20:1]. -/
def immJump (w : Nat) (imm : BitVec 20) : BitVec w := (imm ++ 0#1).signExtend w

/-- U immediates: the field holds imm[31:12]. -/
def immUpper (w : Nat) (imm : BitVec 20) : BitVec w := (imm ++ 0#12).signExtend w

/-- The immediate of a prefixed instruction as a `w`-bit element: sign-extended to XLEN, then cut (rule R230). -/
def immElem (xlen w : Nat) (imm : BitVec 12) : BitVec w := (imm.signExtend xlen).setWidth w

/-! ## Predication -/

/-- `Enabled(i)` of rule R139, from the predicate register's value in `s` (the state at the start, rule R134). -/
def enabled (p : Pred) (s : State) (i : Nat) : Bool :=
  match p with
  | .always => true
  | .on r sense => (s.getX s.cfg.xbits r.num).getLsbD i == sense

/-! ## Effective addresses -/

/-- Whether the data operand of a prefixed load or store is classed V (rules R84, R162). -/
def dataIsV (c : Config) : Bool := c.ldstClass == .vectorData

/-- Whether rs1 is the address vector of a gather or scatter (rule R162). -/
def addrIsV (c : Config) (o : MemOps) : Bool := dataIsV c && o.lsk == .x

/-- The address vector of a gather or scatter (rule R162). -/
def addrOpd (o : MemOps) : Opd := xOpd o.base true

/-- `base + off` of rule R163, from the state at the start (rule R134), `w` = XLEN. -/
def plainBase (w : Nat) (o : MemOps) (s : State) : BitVec w := s.getX w o.base.toNat + immIS w o.imm

/-- Bytes between the starts of consecutive sub-vectors (rule R163), from the state at the start (rule R134). -/
def strideOf (w : Nat) (o : MemOps) (svsz : Nat) (s : State) : BitVec w :=
  match o.lsk with
  | .c | .x => BitVec.ofNat w svsz
  | .si k => BitVec.ofNat w ((k.val + 2) * svsz)
  | .s k => s.getX w (8 + k.val)

/-- `EA(i, j)` of rule R163, `w` = XLEN, elements of `esz` bytes: `s0` is the state at the start of the instruction
(rule R134), `s` the state before sub-vector `i` (the address vector is read there, rule R164). -/
def effAddr (w : Nat) (o : MemOps) (s0 s : State) (svlen esz i j : Nat) : BitVec w :=
  (if addrIsV s0.cfg o then (addrOpd o).get s w 1 i 0 + immIS w o.imm
   else plainBase w o s0 + BitVec.ofNat w i * strideOf w o (svlen * esz) s0) + BitVec.ofNat w (j * esz)

end Sys2Proof.Machine
end

