-- ==== Sys2Proof/Machine/Flags.lean ====
section
/-! DEFINITION. The FP flags and the rounding mode (rules R38, R264, R265). The integer file has no flags (R195). -/

namespace Sys2Proof.Machine

/-- Invalid operation, bit 4 of `fflags` (rule R38). -/
def flagNV : BitVec 5 := 0b10000#5

/-- Division by zero, bit 3. -/
def flagDZ : BitVec 5 := 0b01000#5

/-- Overflow, bit 2. -/
def flagOF : BitVec 5 := 0b00100#5

/-- Underflow, bit 1. -/
def flagUF : BitVec 5 := 0b00010#5

/-- Inexact, bit 0. -/
def flagNX : BitVec 5 := 0b00001#5

/-- A flag where a condition holds. -/
def flagIf (c : Bool) (f : BitVec 5) : BitVec 5 := if c then f else 0#5

/-- Flags accrue: they are ORed in and never cleared (rule R264). -/
def State.orFlags (s : State) (f : BitVec 5) : State := s.setFflags (s.fflags ||| f)

/-- The rounding mode an `rm` field selects (rule R265); `none` where it is `fcsr.frm` and that is reserved. -/
def roundingMode (s : State) : Rm → Option RoundMode
  | .fixed m => some m
  | .dyn => RoundMode.ofNat? s.frm.toNat

end Sys2Proof.Machine
end

