-- ==== Sys2Proof/Machine/Alu.lean ====
section
/-! DEFINITION. The integer element functions of rules R196 to R246 at any element width `w` (rule R191): the prefixed
instructions use them at the width of the element type, the unprefixed ones at XLEN or 32 (rule R500). -/

namespace Sys2Proof.Machine.Alu

/-- R196, R214, R231, R243. -/
def add {w : Nat} (a b : BitVec w) : BitVec w := a + b

/-- R197, R215. -/
def sub {w : Nat} (a b : BitVec w) : BitVec w := a - b

/-- The shift amount of rule R193. -/
def amount {w : Nat} (b : BitVec w) : Nat := b.toNat % w

/-- R198, R216. -/
def sll {w : Nat} (a b : BitVec w) : BitVec w := a <<< amount b

/-- R202, R217. -/
def srl {w : Nat} (a b : BitVec w) : BitVec w := a >>> amount b

/-- R203, R218. -/
def sra {w : Nat} (a b : BitVec w) : BitVec w := a.sshiftRight (amount b)

/-- A condition as a 0 or 1 element (rules R199, R200). -/
def bit {w : Nat} (c : Bool) : BitVec w := if c then BitVec.ofNat w 1 else BitVec.ofNat w 0

/-- R199, R235. -/
def slt {w : Nat} (a b : BitVec w) : BitVec w := bit (decide (a.toInt < b.toInt))

/-- R200, R236. -/
def sltu {w : Nat} (a b : BitVec w) : BitVec w := bit (decide (a.toNat < b.toNat))

/-- R201, R237. -/
def xor {w : Nat} (a b : BitVec w) : BitVec w := a ^^^ b

/-- R204, R238. -/
def or {w : Nat} (a b : BitVec w) : BitVec w := a ||| b

/-- R205, R239. -/
def and {w : Nat} (a b : BitVec w) : BitVec w := a &&& b

/-- R206, R219. -/
def mul {w : Nat} (a b : BitVec w) : BitVec w := a * b

/-- Bits 2w-1:w of an exact product (rules R207 to R209). -/
def highPart (w : Nat) (p : Int) : BitVec w := BitVec.ofInt w (p / ((2 ^ w : Nat) : Int))

/-- R207. -/
def mulh {w : Nat} (a b : BitVec w) : BitVec w := highPart w (a.toInt * b.toInt)

/-- R208. -/
def mulhsu {w : Nat} (a b : BitVec w) : BitVec w := highPart w (a.toInt * (b.toNat : Int))

/-- R209. -/
def mulhu {w : Nat} (a b : BitVec w) : BitVec w := highPart w ((a.toNat : Int) * (b.toNat : Int))

/-- Signed quotient, truncated toward zero (rule R194); the overflow case wraps to the dividend (rule R210). -/
def quot (a b : Int) : Int := Int.tdiv a b

/-- R210, R220. -/
def div {w : Nat} (a b : BitVec w) : BitVec w :=
  if b.toNat = 0 then BitVec.allOnes w else BitVec.ofInt w (quot a.toInt b.toInt)

/-- R211, R221. -/
def divu {w : Nat} (a b : BitVec w) : BitVec w :=
  if b.toNat = 0 then BitVec.allOnes w else BitVec.ofNat w (a.toNat / b.toNat)

/-- R212, R222. -/
def rem {w : Nat} (a b : BitVec w) : BitVec w :=
  if b.toNat = 0 then a else BitVec.ofInt w (a.toInt - b.toInt * quot a.toInt b.toInt)

/-- R213, R223. -/
def remu {w : Nat} (a b : BitVec w) : BitVec w :=
  if b.toNat = 0 then a else BitVec.ofNat w (a.toNat % b.toNat)

/-- Shift left by an immediate (rules R240, R244). -/
def slli {w : Nat} (m : Nat) (a : BitVec w) : BitVec w := a <<< m

/-- Logical shift right by an immediate (rules R241, R245). -/
def srli {w : Nat} (m : Nat) (a : BitVec w) : BitVec w := a >>> m

/-- Arithmetic shift right by an immediate (rules R242, R246). -/
def srai {w : Nat} (m : Nat) (a : BitVec w) : BitVec w := a.sshiftRight m

/-- The OP-32 and OP-IMM-32 results: the function on the low 32 bits, sign-extended (rule R500). -/
def word {w : Nat} (f : BitVec 32 → BitVec 32 → BitVec 32) (a b : BitVec w) : BitVec w :=
  (f (a.setWidth 32) (b.setWidth 32)).signExtend w

end Sys2Proof.Machine.Alu
end

