-- ==== Sys2Proof/Machine/FpNumerics.lean ====
section
/-! DEFINITION. The FP numerics record of rule R261. Its intended instance, `intended`: IEEE 754-2008 arithmetic with the
base ISA's conventions, on bit patterns of binary16, 32, 64 and 128 (rules R109, R121), every operation computing its exact
result in integers (`Num`, or a quotient or root with a sticky bit) and rounding it once (`pack`). Then the record as the
parameter it is (`State.num`): the intended instance, or one of which nothing is known. Log entry 13. -/

namespace Sys2Proof.Machine.Fp

/-- A result pattern with its flags. -/
abbrev Res (w : Nat) := BitVec w × BitVec 5

/-- Exponent bits of a format (binary16, binary32, binary64, binary128). -/
def expBits : Fmt → Nat
  | .h => 5
  | .s => 8
  | .d => 11
  | .q => 15

/-- Fraction bits of a format. -/
def fracBits : Fmt → Nat
  | .h => 10
  | .s => 23
  | .d => 52
  | .q => 112

/-- The largest biased exponent: infinities and NaNs. -/
def expMax (f : Fmt) : Nat := 2 ^ expBits f - 1

/-- The exponent bias. -/
def bias (f : Fmt) : Int := ((2 ^ (expBits f - 1) - 1 : Nat) : Int)

/-- What a bit pattern denotes: a NaN, an infinity, or (-1)^neg * m * 2^e. -/
inductive Num where
  | nan (signalling : Bool)
  | inf (neg : Bool)
  | fin (neg : Bool) (m : Nat) (e : Int)
  deriving DecidableEq, Repr

/-- The sign bit of a pattern. -/
def signOf {w : Nat} (a : BitVec w) : Bool := a.msb

/-- The biased exponent field. -/
def expOf (f : Fmt) (a : BitVec f.width) : Nat := a.toNat / 2 ^ fracBits f % 2 ^ expBits f

/-- The fraction field. -/
def fracOf (f : Fmt) (a : BitVec f.width) : Nat := a.toNat % 2 ^ fracBits f

/-- The value of a pattern. -/
def unpack (f : Fmt) (a : BitVec f.width) : Num :=
  if expOf f a = expMax f then
    if fracOf f a = 0 then .inf (signOf a) else .nan (decide (fracOf f a < 2 ^ (fracBits f - 1)))
  else if expOf f a = 0 then .fin (signOf a) (fracOf f a) (1 - bias f - fracBits f)
  else .fin (signOf a) (2 ^ fracBits f + fracOf f a) (expOf f a - bias f - fracBits f)

/-- The pattern with this sign and this number in its other bits. -/
def withSign (f : Fmt) (neg : Bool) (mag : Nat) : BitVec f.width :=
  BitVec.ofNat f.width ((if neg then 2 ^ (f.width - 1) else 0) + mag)

/-- The canonical quiet NaN (rules R121, R261). -/
def canonicalNaN (f : Fmt) : BitVec f.width := withSign f false (expMax f * 2 ^ fracBits f + 2 ^ (fracBits f - 1))

/-- An infinity. -/
def infinity (f : Fmt) (neg : Bool) : BitVec f.width := withSign f neg (expMax f * 2 ^ fracBits f)

/-- The largest finite value. -/
def largest (f : Fmt) (neg : Bool) : BitVec f.width := withSign f neg (expMax f * 2 ^ fracBits f - 1)

/-- A zero. -/
def zero (f : Fmt) (neg : Bool) : BitVec f.width := withSign f neg 0

/-- Whether a magnitude cut to `q` with remainder `r` of `half * 2` is rounded up (rule R110). -/
def roundsUp (rm : RoundMode) (neg : Bool) (q r half : Nat) : Bool :=
  match rm with
  | .rne => decide (half < r) || (decide (r = half) && decide (q % 2 = 1))
  | .rtz => false
  | .rdn => neg && decide (r ≠ 0)
  | .rup => !neg && decide (r ≠ 0)
  | .rmm => decide (half ≤ r)

/-- The magnitude `m / 2^sh` rounded to an integer, and whether that is inexact; a negative `sh` is exact. -/
def roundShift (rm : RoundMode) (neg : Bool) (m : Nat) (sh : Int) : Nat × Bool :=
  match sh with
  | .ofNat 0 => (m, false)
  | .ofNat (k + 1) =>
    let q := m / 2 ^ (k + 1)
    let r := m % 2 ^ (k + 1)
    (if roundsUp rm neg q r (2 ^ k) then q + 1 else q, decide (r ≠ 0))
  | .negSucc k => (m * 2 ^ (k + 1), false)

/-- What overflow gives in each rounding mode (IEEE 754-2008). -/
def overflow (f : Fmt) (rm : RoundMode) (neg : Bool) : BitVec f.width :=
  match rm with
  | .rne | .rmm => infinity f neg
  | .rtz => largest f neg
  | .rdn => if neg then infinity f neg else largest f neg
  | .rup => if neg then largest f neg else infinity f neg

/-- The exponent of the leading bit of `m * 2^e`, `m` not 0. -/
def topExp (m : Nat) (e : Int) : Int := e + (Nat.log2 m : Int)

/-- The exponent of the smallest normal number. -/
def expMin (f : Fmt) : Int := 1 - bias f

/-- Rounds (-1)^neg * m * 2^e to the format, with the flags OF, UF and NX; tininess is detected after rounding, as if
the exponent range were unbounded (rule R261). -/
def pack (f : Fmt) (rm : RoundMode) (neg : Bool) (m : Nat) (e : Int) : Res f.width :=
  if m = 0 then (zero f neg, 0#5)
  else
    let unit := max (topExp m e) (expMin f) - (fracBits f : Int)
    let r := roundShift rm neg m (unit - e)
    let mag := (unit - (expMin f - (fracBits f : Int))).toNat * 2 ^ fracBits f + r.1
    let tiny := decide (topExp m e < expMin f) &&
      decide ((roundShift rm neg m (topExp m e - (fracBits f : Int) - e)).1 < 2 ^ (fracBits f + 1)
        ∨ topExp m e + 1 < expMin f)
    if expMax f * 2 ^ fracBits f ≤ mag then (overflow f rm neg, flagOF ||| flagNX)
    else (withSign f neg mag, flagIf (tiny && r.2) flagUF ||| flagIf r.2 flagNX)

/-- Whether a value is a signalling NaN. -/
def isSignalling : Num → Bool
  | .nan s => s
  | .inf _ | .fin _ _ _ => false

/-- Whether a value is a NaN. -/
def isNaN : Num → Bool
  | .nan _ => true
  | .inf _ | .fin _ _ _ => false

/-- The result of an invalid operation: canonical NaN with NV. -/
def invalid (f : Fmt) : Res f.width := (canonicalNaN f, flagNV)

/-- The result where an operand is a NaN: canonical NaN, NV for a signalling one (rule R261). -/
def quieted (f : Fmt) (signalling : Bool) : Res f.width := (canonicalNaN f, flagIf signalling flagNV)

/-- (-1)^neg * m * 2^(e - base) as an integer, for `base <= e`. -/
def scaled (neg : Bool) (m : Nat) (e base : Int) : Int :=
  if neg then -((m * 2 ^ (e - base).toNat : Nat) : Int) else ((m * 2 ^ (e - base).toNat : Nat) : Int)

/-- The sum of two finite values, rounded once; an exact zero sum of opposite signs is +0, or -0 under RDN. -/
def addFin (f : Fmt) (rm : RoundMode) (n1 : Bool) (m1 : Nat) (e1 : Int) (n2 : Bool) (m2 : Nat) (e2 : Int) :
    Res f.width :=
  let base := min e1 e2
  let v := scaled n1 m1 e1 base + scaled n2 m2 e2 base
  if v = 0 then (zero f (if n1 = n2 then n1 else rm == .rdn), 0#5)
  else pack f rm (decide (v < 0)) v.natAbs base

/-- The sum of two values. -/
def addNum (f : Fmt) (rm : RoundMode) (a b : Num) : Res f.width :=
  match a, b with
  | .nan s, y => quieted f (s || isSignalling y)
  | x, .nan s => quieted f (isSignalling x || s)
  | .inf p, .inf q => if p = q then (infinity f p, 0#5) else invalid f
  | .inf p, .fin _ _ _ => (infinity f p, 0#5)
  | .fin _ _ _, .inf q => (infinity f q, 0#5)
  | .fin n1 m1 e1, .fin n2 m2 e2 => addFin f rm n1 m1 e1 n2 m2 e2

/-- `fp_neg` (rule R261): the sign bit inverted. -/
def fpNeg {w : Nat} (a : BitVec w) : BitVec w := a ^^^ BitVec.ofNat w (2 ^ (w - 1))

/-- `fp_add` (rule R261). -/
def fpAdd (f : Fmt) (rm : RoundMode) (a b : BitVec f.width) : Res f.width := addNum f rm (unpack f a) (unpack f b)

/-- `fp_sub` (rule R261). -/
def fpSub (f : Fmt) (rm : RoundMode) (a b : BitVec f.width) : Res f.width := addNum f rm (unpack f a) (unpack f (fpNeg b))

/-- `fp_mul` (rule R261). -/
def fpMul (f : Fmt) (rm : RoundMode) (a b : BitVec f.width) : Res f.width :=
  match unpack f a, unpack f b with
  | .nan s, y => quieted f (s || isSignalling y)
  | x, .nan s => quieted f (isSignalling x || s)
  | .inf p, .inf q => (infinity f (p ^^ q), 0#5)
  | .inf p, .fin n m _ | .fin n m _, .inf p => if m = 0 then invalid f else (infinity f (p ^^ n), 0#5)
  | .fin n1 m1 e1, .fin n2 m2 e2 => pack f rm (n1 ^^ n2) (m1 * m2) (e1 + e2)

/-- A bit that stands for a non-zero remainder below the bits kept. -/
def sticky (b : Bool) : Nat := if b then 1 else 0

/-- The quotient of two finite values, `m2` not 0: enough quotient bits that the sticky bit lies below the rounding
point of every format. -/
def divFin (f : Fmt) (rm : RoundMode) (neg : Bool) (m1 : Nat) (e1 : Int) (m2 : Nat) (e2 : Int) : Res f.width :=
  let k := fracBits f + 4 + Nat.log2 m2
  let n := m1 * 2 ^ k
  pack f rm neg (2 * (n / m2) + sticky (decide (n % m2 ≠ 0))) (e1 - e2 - (k : Int) - 1)

/-- `fp_div` (rule R261): DZ for a finite non-zero dividend and a zero divisor. -/
def fpDiv (f : Fmt) (rm : RoundMode) (a b : BitVec f.width) : Res f.width :=
  match unpack f a, unpack f b with
  | .nan s, y => quieted f (s || isSignalling y)
  | x, .nan s => quieted f (isSignalling x || s)
  | .inf _, .inf _ => invalid f
  | .inf p, .fin n _ _ => (infinity f (p ^^ n), 0#5)
  | .fin n _ _, .inf q => (zero f (n ^^ q), 0#5)
  | .fin n1 m1 e1, .fin n2 m2 e2 =>
    if m2 = 0 then if m1 = 0 then invalid f else (infinity f (n1 ^^ n2), flagDZ)
    else divFin f rm (n1 ^^ n2) m1 e1 m2 e2

/-- The integer square root of `n` below `2^bits`, one bit at a time from the top, starting from `r`. -/
def isqrt (n : Nat) : Nat → Nat → Nat
  | 0, r => r
  | b + 1, r => isqrt n b (if (r + 2 ^ b) * (r + 2 ^ b) ≤ n then r + 2 ^ b else r)

/-- The square root of a positive finite value. -/
def sqrtFin (f : Fmt) (rm : RoundMode) (m : Nat) (e : Int) : Res f.width :=
  let k := 2 * (fracBits f + 4) + (e % 2).toNat
  let n := m * 2 ^ k
  let r := isqrt n (Nat.log2 n / 2 + 1) 0
  pack f rm false (2 * r + sticky (decide (r * r ≠ n))) ((e - (k : Int)) / 2 - 1)

/-- `fp_sqrt` (rule R261): NV for a negative non-zero operand (rule R280). -/
def fpSqrt (f : Fmt) (rm : RoundMode) (a : BitVec f.width) : Res f.width :=
  match unpack f a with
  | .nan s => quieted f s
  | .inf p => if p then invalid f else (infinity f false, 0#5)
  | .fin n m e => if m = 0 then (zero f n, 0#5) else if n then invalid f else sqrtFin f rm m e

/-- `fp_fma` (rule R261): a * b + c with one rounding; infinity times zero is NV even when `c` is a quiet NaN
(rule R295). -/
def fpFma (f : Fmt) (rm : RoundMode) (a b c : BitVec f.width) : Res f.width :=
  let z := unpack f c
  match unpack f a, unpack f b with
  | .nan s, y => quieted f (s || isSignalling y || isSignalling z)
  | x, .nan s => quieted f (isSignalling x || s || isSignalling z)
  | .inf p, .inf q => addNum f rm (.inf (p ^^ q)) z
  | .inf p, .fin n m _ | .fin n m _, .inf p => if m = 0 then invalid f else addNum f rm (.inf (p ^^ n)) z
  | .fin n1 m1 e1, .fin n2 m2 e2 => addNum f rm (.fin (n1 ^^ n2) (m1 * m2) (e1 + e2)) z

/-! ## Comparisons and selections -/

/-- Sign and magnitude as one integer: the order of the non-NaN patterns, with -0 and +0 equal. -/
def key (f : Fmt) (a : BitVec f.width) : Int :=
  if signOf a then -((a.toNat % 2 ^ (f.width - 1) : Nat) : Int) else ((a.toNat % 2 ^ (f.width - 1) : Nat) : Int)

/-- Whether an operand is a NaN. -/
def anyNaN (f : Fmt) (a b : BitVec f.width) : Bool := isNaN (unpack f a) || isNaN (unpack f b)

/-- Whether an operand is a signalling NaN. -/
def anySignalling (f : Fmt) (a b : BitVec f.width) : Bool := isSignalling (unpack f a) || isSignalling (unpack f b)

/-- `fp_eq` (rule R261): quiet. -/
def fpEq (f : Fmt) (a b : BitVec f.width) : Bool × BitVec 5 :=
  (!anyNaN f a b && decide (key f a = key f b), flagIf (anySignalling f a b) flagNV)

/-- `fp_lt` (rule R261): signalling. -/
def fpLt (f : Fmt) (a b : BitVec f.width) : Bool × BitVec 5 :=
  (!anyNaN f a b && decide (key f a < key f b), flagIf (anyNaN f a b) flagNV)

/-- `fp_le` (rule R261): signalling. -/
def fpLe (f : Fmt) (a b : BitVec f.width) : Bool × BitVec 5 :=
  (!anyNaN f a b && decide (key f a ≤ key f b), flagIf (anyNaN f a b) flagNV)

/-- Whether `a` is below `b`, with -0 below +0; neither is a NaN. -/
def below (f : Fmt) (a b : BitVec f.width) : Bool :=
  decide (key f a < key f b) || (decide (key f a = key f b) && signOf a && !signOf b)

/-- The operand `fp_min` and `fp_max` select: the other one when exactly one is a NaN, the canonical NaN when both are
(rule R261); otherwise `a` where `first` holds. -/
def select (f : Fmt) (a b : BitVec f.width) (first : Bool) : Res f.width :=
  (match isNaN (unpack f a), isNaN (unpack f b) with
    | true, true => canonicalNaN f
    | true, false => b
    | false, true => a
    | false, false => if first then a else b,
   flagIf (anySignalling f a b) flagNV)

/-- `fp_min` (rule R261). -/
def fpMin (f : Fmt) (a b : BitVec f.width) : Res f.width := select f a b (!below f b a)

/-- `fp_max` (rule R261). -/
def fpMax (f : Fmt) (a b : BitVec f.width) : Res f.width := select f a b (!below f a b)

/-- FSGNJ (rule R272). -/
def sgnj {w : Nat} (a b : BitVec w) : BitVec w :=
  if signOf a = signOf b then a else fpNeg a

/-- FSGNJN (rule R273). -/
def sgnjn {w : Nat} (a b : BitVec w) : BitVec w :=
  if signOf a = signOf b then fpNeg a else a

/-- FSGNJX (rule R274). -/
def sgnjx {w : Nat} (a b : BitVec w) : BitVec w :=
  if signOf b then fpNeg a else a

/-- `fp_class` (rule R261): exactly one of bits 0 to 9. -/
def fpClass (f : Fmt) (a : BitVec f.width) : BitVec 10 :=
  match unpack f a with
  | .nan true => BitVec.twoPow 10 8
  | .nan false => BitVec.twoPow 10 9
  | .inf true => BitVec.twoPow 10 0
  | .inf false => BitVec.twoPow 10 7
  | .fin n m _ =>
    if m = 0 then if n then BitVec.twoPow 10 3 else BitVec.twoPow 10 4
    else if expOf f a = 0 then if n then BitVec.twoPow 10 2 else BitVec.twoPow 10 5
    else if n then BitVec.twoPow 10 1 else BitVec.twoPow 10 6

/-- A comparison's 0 or 1 as a `w`-bit integer (rules R277, R571). -/
def ofBool (w : Nat) (r : Bool × BitVec 5) : Res w := (BitVec.ofNat w (if r.1 then 1 else 0), r.2)

/-! ## Conversions -/

/-- The smallest integer of `iw` bits. -/
def intMin (iw : Nat) (signed : Bool) : Int := if signed then -((2 ^ (iw - 1) : Nat) : Int) else 0

/-- The largest integer of `iw` bits. -/
def intMax (iw : Nat) (signed : Bool) : Int :=
  if signed then ((2 ^ (iw - 1) : Nat) : Int) - 1 else ((2 ^ iw : Nat) : Int) - 1

/-- `fp_to_int` (rule R261): out of range sets NV alone and saturates; NaN gives the largest. -/
def fpToInt (f : Fmt) (iw : Nat) (signed : Bool) (rm : RoundMode) (a : BitVec f.width) : Res iw :=
  match unpack f a with
  | .nan _ => (BitVec.ofInt iw (intMax iw signed), flagNV)
  | .inf n => (BitVec.ofInt iw (if n then intMin iw signed else intMax iw signed), flagNV)
  | .fin n m e =>
    let r := roundShift rm n m (-e)
    let v : Int := if n then -(r.1 : Int) else (r.1 : Int)
    if v < intMin iw signed then (BitVec.ofInt iw (intMin iw signed), flagNV)
    else if intMax iw signed < v then (BitVec.ofInt iw (intMax iw signed), flagNV)
    else (BitVec.ofInt iw v, flagIf r.2 flagNX)

/-- `int_to_fp` (rule R261). -/
def intToFp (f : Fmt) (iw : Nat) (signed : Bool) (rm : RoundMode) (v : BitVec iw) : Res f.width :=
  if signed then pack f rm v.msb v.toInt.natAbs 0 else pack f rm false v.toNat 0

/-- `fp_cvt(Fd, Fs, rm, a)` (rule R261). -/
def fpCvt (fd fs : Fmt) (rm : RoundMode) (a : BitVec fs.width) : Res fd.width :=
  match unpack fs a with
  | .nan s => quieted fd s
  | .inf n => (infinity fd n, 0#5)
  | .fin n m e => pack fd rm n m e

/-- An integer result sign-extended to XLEN (rules R360, R574, R575). -/
def extend {iw : Nat} (xlen : Nat) (r : Res iw) : Res xlen := (r.1.signExtend xlen, r.2)

/-- An integer or moved result: it sets no flags (rules R195, R272, R290). -/
def noFlags {w : Nat} (v : BitVec w) : Res w := (v, 0#5)

/-! ## The record -/

/-- The functions of rule R261's table but for `fp_neg`, which the table itself defines. -/
structure Numerics where
  add   : (f : Fmt) → RoundMode → BitVec f.width → BitVec f.width → Res f.width
  sub   : (f : Fmt) → RoundMode → BitVec f.width → BitVec f.width → Res f.width
  mul   : (f : Fmt) → RoundMode → BitVec f.width → BitVec f.width → Res f.width
  div   : (f : Fmt) → RoundMode → BitVec f.width → BitVec f.width → Res f.width
  sqrt  : (f : Fmt) → RoundMode → BitVec f.width → Res f.width
  fma   : (f : Fmt) → RoundMode → BitVec f.width → BitVec f.width → BitVec f.width → Res f.width
  min   : (f : Fmt) → BitVec f.width → BitVec f.width → Res f.width
  max   : (f : Fmt) → BitVec f.width → BitVec f.width → Res f.width
  eq    : (f : Fmt) → BitVec f.width → BitVec f.width → Bool × BitVec 5
  lt    : (f : Fmt) → BitVec f.width → BitVec f.width → Bool × BitVec 5
  le    : (f : Fmt) → BitVec f.width → BitVec f.width → Bool × BitVec 5
  toInt : (f : Fmt) → (iw : Nat) → (signed : Bool) → RoundMode → BitVec f.width → Res iw
  ofInt : (f : Fmt) → (iw : Nat) → (signed : Bool) → RoundMode → BitVec iw → Res f.width
  cvt   : (fd fs : Fmt) → RoundMode → BitVec fs.width → Res fd.width
  classify : (f : Fmt) → BitVec f.width → BitVec 10
  deriving Inhabited

/-- The intended instance of rule R261. -/
def intended : Numerics :=
  { add := fpAdd, sub := fpSub, mul := fpMul, div := fpDiv, sqrt := fpSqrt, fma := fpFma, min := fpMin, max := fpMax,
    eq := fpEq, lt := fpLt, le := fpLe, toInt := fpToInt, ofInt := intToFp, cvt := fpCvt, classify := fpClass }

end Sys2Proof.Machine.Fp

namespace Sys2Proof

/-- The records a reader may instantiate (rule R261), by number: free values, nothing is known of any (log entry 13). -/
opaque Config.readerNumerics : Nat → Machine.Fp.Numerics

/-- The FP numerics record of a machine (rules R6, R261). -/
def Config.numerics (c : Config) : Machine.Fp.Numerics :=
  match c.fpChoice with
  | .intended => Machine.Fp.intended
  | .reader n => Config.readerNumerics n

/-- The FP numerics record in force. -/
abbrev Machine.State.num (s : Machine.State) : Machine.Fp.Numerics := s.cfg.numerics

end Sys2Proof
end

