-- ==== Sys2Proof/Machine/Base.lean ====
section
/-! DEFINITION. The shared forms of the unprefixed instructions (rules R330 to R333, R360, R368, R500, R544, R560):
whole registers, no VL, Vstart or predicate; the pc advances by 4. -/

namespace Sys2Proof.Machine

/-- Writes `v` to x[rd] and moves past a 32-bit instruction (rule R333). -/
def State.retireX (s : State) (w : Nat) (rd : BitVec 5) (v : BitVec w) : Out := .next ((s.putX w rd.toNat v).advance 4)

/-- x[rs1] and x[rs2] combined at XLEN bits (rule R500). -/
def baseR (f : (w : Nat) → BitVec w → BitVec w → BitVec w) (rd rs1 rs2 : BitVec 5) (s : State) : Out :=
  let w := s.cfg.xbits
  s.retireX w rd (f w (s.getX w rs1.toNat) (s.getX w rs2.toNat))

/-- x[rs1] combined with the sign-extended immediate at XLEN bits (rule R500). -/
def baseI (f : (w : Nat) → BitVec w → BitVec w → BitVec w) (rd rs1 : BitVec 5) (imm : BitVec 12) (s : State) : Out :=
  let w := s.cfg.xbits
  s.retireX w rd (f w (s.getX w rs1.toNat) (immIS w imm))

/-- x[rs1] shifted by an immediate at XLEN bits (rules R509 to R511). -/
def baseShift (g : (w : Nat) → Nat → BitVec w → BitVec w) (rd rs1 : BitVec 5) (shamt : BitVec 6) (s : State) : Out :=
  let w := s.cfg.xbits
  s.retireX w rd (g w shamt.toNat (s.getX w rs1.toNat))

/-- The low 32 bits of x[rs1] shifted by an immediate, sign-extended (rules R523 to R525). -/
def baseShiftWord (g : Nat → BitVec 32 → BitVec 32) (rd rs1 shamt : BitVec 5) (s : State) : Out :=
  let w := s.cfg.xbits
  s.retireX w rd ((g shamt.toNat ((s.getX w rs1.toNat).setWidth 32)).signExtend w)

/-- The effective address of rule R544, `w` = XLEN. -/
def baseAddr (w : Nat) (rs1 : BitVec 5) (imm : BitVec 12) (s : State) : Nat :=
  (s.getX w rs1.toNat + immIS w imm).toNat

/-- A load of `w` bits (rule R544): the checks, then `k` of the value read. -/
def baseLoad (w : Nat) (rs1 : BitVec 5) (imm : BitVec 12) (s : State) (k : BitVec w → State) : Out :=
  let a := baseAddr s.cfg.xbits rs1 imm s
  match s.checkAccess a (w / 8) .load with
  | some e => raise e a s
  | none => .next ((k (s.memGet a w)).advance 4)

/-- A store of `w` bits (rule R544): the checks, the program text (rule R64), then the write. -/
def baseStore (w : Nat) (rs1 : BitVec 5) (imm : BitVec 12) (v : BitVec w) (s : State) : Out :=
  let a := baseAddr s.cfg.xbits rs1 imm s
  match s.checkAccess a (w / 8) .store with
  | some e => raise e a s
  | none => if s.hitsText a (w / 8) then .fault (.storeToText a) else .next ((s.memPut a w v).advance 4)

/-- An integer load, sign-extended to XLEN (rule R544). -/
def loadSigned (w : Nat) (rd rs1 : BitVec 5) (imm : BitVec 12) (s : State) : Out :=
  baseLoad w rs1 imm s (fun v => s.putX s.cfg.xbits rd.toNat (v.signExtend s.cfg.xbits))

/-- An integer load, zero-extended to XLEN (rule R544). -/
def loadUnsigned (w : Nat) (rd rs1 : BitVec 5) (imm : BitVec 12) (s : State) : Out :=
  baseLoad w rs1 imm s (fun v => s.putX s.cfg.xbits rd.toNat (v.setWidth s.cfg.xbits))

/-- An integer store of the low `w` bits of x[rs2] (rule R544). -/
def storeX (w : Nat) (rs2 rs1 : BitVec 5) (imm : BitVec 12) (s : State) : Out :=
  baseStore w rs1 imm ((s.getX s.cfg.xbits rs2.toNat).setWidth w) s

/-! ## Floating point (rules R122, R360) -/

/-- A `w`-bit result in an FLEN-bit register: NaN-boxed (rules R122, R360). -/
def box {w : Nat} (flen : Nat) (v : BitVec w) : BitVec flen := (BitVec.allOnes (flen - w) ++ v).setWidth flen

/-- A `fmt` operand of an FLEN-bit register: its low bits where the others are all ones, else the canonical NaN
(rules R122, R360). -/
def unbox (f : Fmt) {flen : Nat} (v : BitVec flen) : BitVec f.width :=
  if v.toNat / 2 ^ f.width = 2 ^ (flen - f.width) - 1 then v.setWidth f.width else Fp.canonicalNaN f

/-- The NaN-box-checked operand in f[r] (rule R360). -/
def State.fpArg (s : State) (f : Fmt) (r : BitVec 5) : BitVec f.width := unbox f (s.getF s.cfg.fbits r.toNat)

/-- f[rd] takes the boxed result, the flags accrue, and the pc moves on (rule R360). -/
def State.retireF (s : State) {w : Nat} (rd : BitVec 5) (r : Fp.Res w) : Out :=
  .next (((s.putF s.cfg.fbits rd.toNat (box s.cfg.fbits r.1)).orFlags r.2).advance 4)

/-- x[rd] takes an FP instruction's integer result, the flags accrue, and the pc moves on (rule R360). -/
def State.retireXFlags (s : State) (rd : BitVec 5) (r : Fp.Res s.cfg.xbits) : Out :=
  .next (((s.putX s.cfg.xbits rd.toNat r.1).orFlags r.2).advance 4)

/-- The format fits FLEN (rules R7, R260). -/
def fmtFits (s : State) (f : Fmt) : Bool := decide (f.width ≤ s.cfg.fbits)

/-- Runs `k` under the rounding mode that `rm` selects; a reserved one raises IllegalInstruction (rule R265). -/
def rounded (rm : Rm) (i : Instr) (s : State) (k : RoundMode → Out) : Out :=
  match roundingMode s rm with
  | some m => k m
  | none => raise .illegalInstruction (encodeWord s.cfg.setvlEnc i) s

/-- An FP load of `w` bits, NaN-boxed (rule R544). -/
def loadF (w : Nat) (rd rs1 : BitVec 5) (imm : BitVec 12) (s : State) : Out :=
  baseLoad w rs1 imm s (fun v => s.putF s.cfg.fbits rd.toNat (box s.cfg.fbits v))

/-- An FP store of the low `w` bits of f[rs2], without a box check (rule R544). -/
def storeF (w : Nat) (rs2 rs1 : BitVec 5) (imm : BitVec 12) (s : State) : Out :=
  baseStore w rs1 imm ((s.getF s.cfg.fbits rs2.toNat).setWidth w) s

/-! ## Control transfer and CSR access -/

/-- A conditional branch (rules R342 to R347). -/
def branchIf (taken : Bool) (imm : BitVec 12) (s : State) : Out :=
  let w := s.cfg.xbits
  .next (if taken then s.goto w (s.pcAt w + immBranch w imm) else s.advance 4)

/-- The CSR read and, where `write` is given, written with what it makes of the old value; x[rd] takes the old value
(rules R368 to R374). -/
def csrAccess (rd : BitVec 5) (a : BitVec 12) (write : Option ((w : Nat) → BitVec w → BitVec w)) (s : State) : Out :=
  let w := s.cfg.xbits
  match csrAt s.cfg a with
  | none => .fault (.unmodelledCsr a)
  | some c =>
    let old := BitVec.ofNat w (s.csrGet c)
    match write with
    | none => s.retireX w rd old
    | some f =>
      let new := (f w old).toNat
      if csrLegal s.cfg c new then (s.csrPut c new).retireX w rd old else .fault (.illegalCsrValue c new)

end Sys2Proof.Machine
end

