-- ==== Sys2Proof/Machine/BaseFloat.lean ====
section
/-! DEFINITION. The meanings of the unprefixed FP instructions (rules R125, R360, R560 to R589).
One definition for each arm of `exec`. -/

namespace Sys2Proof.Machine

/-- `fadd.fmt`, rule R561. -/
def execFaddFmt (fmt : Fmt) (rm : Rm) (rd rs1 rs2 : BitVec 5) (s : State) : Out :=
  legally (fmtFits s fmt) (.faddFmt fmt rm rd rs1 rs2) s
    (rounded rm (.faddFmt fmt rm rd rs1 rs2) s
      (fun m => s.retireF rd (s.num.add fmt m (s.fpArg fmt rs1) (s.fpArg fmt rs2))))

/-- `fsub.fmt`, rule R562. -/
def execFsubFmt (fmt : Fmt) (rm : Rm) (rd rs1 rs2 : BitVec 5) (s : State) : Out :=
  legally (fmtFits s fmt) (.fsubFmt fmt rm rd rs1 rs2) s
    (rounded rm (.fsubFmt fmt rm rd rs1 rs2) s
      (fun m => s.retireF rd (s.num.sub fmt m (s.fpArg fmt rs1) (s.fpArg fmt rs2))))

/-- `fmul.fmt`, rule R563. -/
def execFmulFmt (fmt : Fmt) (rm : Rm) (rd rs1 rs2 : BitVec 5) (s : State) : Out :=
  legally (fmtFits s fmt) (.fmulFmt fmt rm rd rs1 rs2) s
    (rounded rm (.fmulFmt fmt rm rd rs1 rs2) s
      (fun m => s.retireF rd (s.num.mul fmt m (s.fpArg fmt rs1) (s.fpArg fmt rs2))))

/-- `fdiv.fmt`, rule R564. -/
def execFdivFmt (fmt : Fmt) (rm : Rm) (rd rs1 rs2 : BitVec 5) (s : State) : Out :=
  legally (fmtFits s fmt) (.fdivFmt fmt rm rd rs1 rs2) s
    (rounded rm (.fdivFmt fmt rm rd rs1 rs2) s
      (fun m => s.retireF rd (s.num.div fmt m (s.fpArg fmt rs1) (s.fpArg fmt rs2))))

/-- `fsqrt.fmt`, rule R565. -/
def execFsqrtFmt (fmt : Fmt) (rm : Rm) (rd rs1 : BitVec 5) (s : State) : Out :=
  legally (fmtFits s fmt) (.fsqrtFmt fmt rm rd rs1) s
    (rounded rm (.fsqrtFmt fmt rm rd rs1) s (fun m => s.retireF rd (s.num.sqrt fmt m (s.fpArg fmt rs1))))

/-- `fsgnj.fmt`, rule R566. -/
def execFsgnjFmt (fmt : Fmt) (rd rs1 rs2 : BitVec 5) (s : State) : Out :=
  legally (fmtFits s fmt) (.fsgnjFmt fmt rd rs1 rs2) s
    (s.retireF rd (Fp.noFlags (Fp.sgnj (s.fpArg fmt rs1) (s.fpArg fmt rs2))))

/-- `fsgnjn.fmt`, rule R567. -/
def execFsgnjnFmt (fmt : Fmt) (rd rs1 rs2 : BitVec 5) (s : State) : Out :=
  legally (fmtFits s fmt) (.fsgnjnFmt fmt rd rs1 rs2) s
    (s.retireF rd (Fp.noFlags (Fp.sgnjn (s.fpArg fmt rs1) (s.fpArg fmt rs2))))

/-- `fsgnjx.fmt`, rule R568. -/
def execFsgnjxFmt (fmt : Fmt) (rd rs1 rs2 : BitVec 5) (s : State) : Out :=
  legally (fmtFits s fmt) (.fsgnjxFmt fmt rd rs1 rs2) s
    (s.retireF rd (Fp.noFlags (Fp.sgnjx (s.fpArg fmt rs1) (s.fpArg fmt rs2))))

/-- `fmin.fmt`, rule R569. -/
def execFminFmt (fmt : Fmt) (rd rs1 rs2 : BitVec 5) (s : State) : Out :=
  legally (fmtFits s fmt) (.fminFmt fmt rd rs1 rs2) s
    (s.retireF rd (s.num.min fmt (s.fpArg fmt rs1) (s.fpArg fmt rs2)))

/-- `fmax.fmt`, rule R570. -/
def execFmaxFmt (fmt : Fmt) (rd rs1 rs2 : BitVec 5) (s : State) : Out :=
  legally (fmtFits s fmt) (.fmaxFmt fmt rd rs1 rs2) s
    (s.retireF rd (s.num.max fmt (s.fpArg fmt rs1) (s.fpArg fmt rs2)))

/-- `feq.fmt`, rule R571. -/
def execFeqFmt (fmt : Fmt) (rd rs1 rs2 : BitVec 5) (s : State) : Out :=
  legally (fmtFits s fmt) (.feqFmt fmt rd rs1 rs2) s
    (s.retireXFlags rd (Fp.ofBool s.cfg.xbits (s.num.eq fmt (s.fpArg fmt rs1) (s.fpArg fmt rs2))))

/-- `flt.fmt`, rule R572. -/
def execFltFmt (fmt : Fmt) (rd rs1 rs2 : BitVec 5) (s : State) : Out :=
  legally (fmtFits s fmt) (.fltFmt fmt rd rs1 rs2) s
    (s.retireXFlags rd (Fp.ofBool s.cfg.xbits (s.num.lt fmt (s.fpArg fmt rs1) (s.fpArg fmt rs2))))

/-- `fle.fmt`, rule R573. -/
def execFleFmt (fmt : Fmt) (rd rs1 rs2 : BitVec 5) (s : State) : Out :=
  legally (fmtFits s fmt) (.fleFmt fmt rd rs1 rs2) s
    (s.retireXFlags rd (Fp.ofBool s.cfg.xbits (s.num.le fmt (s.fpArg fmt rs1) (s.fpArg fmt rs2))))

/-- `fcvt.w.fmt`, rule R574. -/
def execFcvtWFmt (fmt : Fmt) (rm : Rm) (rd rs1 : BitVec 5) (s : State) : Out :=
  legally (fmtFits s fmt) (.fcvtWFmt fmt rm rd rs1) s
    (rounded rm (.fcvtWFmt fmt rm rd rs1) s
      (fun m => s.retireXFlags rd (Fp.extend s.cfg.xbits (s.num.toInt fmt 32 true m (s.fpArg fmt rs1)))))

/-- `fcvt.wu.fmt`, rule R575. -/
def execFcvtWuFmt (fmt : Fmt) (rm : Rm) (rd rs1 : BitVec 5) (s : State) : Out :=
  legally (fmtFits s fmt) (.fcvtWuFmt fmt rm rd rs1) s
    (rounded rm (.fcvtWuFmt fmt rm rd rs1) s
      (fun m => s.retireXFlags rd (Fp.extend s.cfg.xbits (s.num.toInt fmt 32 false m (s.fpArg fmt rs1)))))

/-- `fcvt.l.fmt`, rule R576. -/
def execFcvtLFmt (fmt : Fmt) (rm : Rm) (rd rs1 : BitVec 5) (s : State) : Out :=
  legally (fmtFits s fmt && s.cfg.xlen == .rv64) (.fcvtLFmt fmt rm rd rs1) s
    (rounded rm (.fcvtLFmt fmt rm rd rs1) s
      (fun m => s.retireXFlags rd (Fp.extend s.cfg.xbits (s.num.toInt fmt 64 true m (s.fpArg fmt rs1)))))

/-- `fcvt.lu.fmt`, rule R577. -/
def execFcvtLuFmt (fmt : Fmt) (rm : Rm) (rd rs1 : BitVec 5) (s : State) : Out :=
  legally (fmtFits s fmt && s.cfg.xlen == .rv64) (.fcvtLuFmt fmt rm rd rs1) s
    (rounded rm (.fcvtLuFmt fmt rm rd rs1) s
      (fun m => s.retireXFlags rd (Fp.extend s.cfg.xbits (s.num.toInt fmt 64 false m (s.fpArg fmt rs1)))))

/-- `fcvt.fmt.w`, rule R578. -/
def execFcvtFmtW (fmt : Fmt) (rm : Rm) (rd rs1 : BitVec 5) (s : State) : Out :=
  legally (fmtFits s fmt) (.fcvtFmtW fmt rm rd rs1) s
    (rounded rm (.fcvtFmtW fmt rm rd rs1) s
      (fun m => s.retireF rd (s.num.ofInt fmt 32 true m ((s.getX s.cfg.xbits rs1.toNat).setWidth 32))))

/-- `fcvt.fmt.wu`, rule R579. -/
def execFcvtFmtWu (fmt : Fmt) (rm : Rm) (rd rs1 : BitVec 5) (s : State) : Out :=
  legally (fmtFits s fmt) (.fcvtFmtWu fmt rm rd rs1) s
    (rounded rm (.fcvtFmtWu fmt rm rd rs1) s
      (fun m => s.retireF rd (s.num.ofInt fmt 32 false m ((s.getX s.cfg.xbits rs1.toNat).setWidth 32))))

/-- `fcvt.fmt.l`, rule R580. -/
def execFcvtFmtL (fmt : Fmt) (rm : Rm) (rd rs1 : BitVec 5) (s : State) : Out :=
  legally (fmtFits s fmt && s.cfg.xlen == .rv64) (.fcvtFmtL fmt rm rd rs1) s
    (rounded rm (.fcvtFmtL fmt rm rd rs1) s
      (fun m => s.retireF rd (s.num.ofInt fmt 64 true m ((s.getX s.cfg.xbits rs1.toNat).setWidth 64))))

/-- `fcvt.fmt.lu`, rule R581. -/
def execFcvtFmtLu (fmt : Fmt) (rm : Rm) (rd rs1 : BitVec 5) (s : State) : Out :=
  legally (fmtFits s fmt && s.cfg.xlen == .rv64) (.fcvtFmtLu fmt rm rd rs1) s
    (rounded rm (.fcvtFmtLu fmt rm rd rs1) s
      (fun m => s.retireF rd (s.num.ofInt fmt 64 false m ((s.getX s.cfg.xbits rs1.toNat).setWidth 64))))

/-- `fcvt.fmt.fmt`, rule R582. -/
def execFcvtFmtFmt (fmt src : Fmt) (rm : Rm) (rd rs1 : BitVec 5) (s : State) : Out :=
  legally (fmtFits s fmt && fmtFits s src && src != fmt) (.fcvtFmtFmt fmt src rm rd rs1) s
    (rounded rm (.fcvtFmtFmt fmt src rm rd rs1) s (fun m => s.retireF rd (s.num.cvt fmt src m (s.fpArg src rs1))))

/-- `fmv.x.fmt`, rule R583. -/
def execFmvXFmt (fmt : Fmt) (rd rs1 : BitVec 5) (s : State) : Out :=
  legally (fmtFits s fmt && decide (fmt.width ≤ s.cfg.xbits)) (.fmvXFmt fmt rd rs1) s
    (s.retireXFlags rd (Fp.noFlags (((s.getF s.cfg.fbits rs1.toNat).setWidth fmt.width).signExtend s.cfg.xbits)))

/-- `fmv.fmt.x`, rule R584. -/
def execFmvFmtX (fmt : Fmt) (rd rs1 : BitVec 5) (s : State) : Out :=
  legally (fmtFits s fmt && decide (fmt.width ≤ s.cfg.xbits)) (.fmvFmtX fmt rd rs1) s
    (s.retireF rd (Fp.noFlags ((s.getX s.cfg.xbits rs1.toNat).setWidth fmt.width)))

/-- `fclass.fmt`, rule R585. -/
def execFclassFmt (fmt : Fmt) (rd rs1 : BitVec 5) (s : State) : Out :=
  legally (fmtFits s fmt) (.fclassFmt fmt rd rs1) s
    (s.retireXFlags rd (Fp.noFlags ((s.num.classify fmt (s.fpArg fmt rs1)).setWidth s.cfg.xbits)))

/-- `fmadd.fmt`, rule R586. -/
def execFmaddFmt (fmt : Fmt) (rm : Rm) (rd rs1 rs2 rs3 : BitVec 5) (s : State) : Out :=
  legally (fmtFits s fmt) (.fmaddFmt fmt rm rd rs1 rs2 rs3) s
    (rounded rm (.fmaddFmt fmt rm rd rs1 rs2 rs3) s
      (fun m => s.retireF rd (s.num.fma fmt m (s.fpArg fmt rs1) (s.fpArg fmt rs2) (s.fpArg fmt rs3))))

/-- `fmsub.fmt`, rule R587. -/
def execFmsubFmt (fmt : Fmt) (rm : Rm) (rd rs1 rs2 rs3 : BitVec 5) (s : State) : Out :=
  legally (fmtFits s fmt) (.fmsubFmt fmt rm rd rs1 rs2 rs3) s
    (rounded rm (.fmsubFmt fmt rm rd rs1 rs2 rs3) s
      (fun m => s.retireF rd (s.num.fma fmt m (s.fpArg fmt rs1) (s.fpArg fmt rs2) (Fp.fpNeg (s.fpArg fmt rs3)))))

/-- `fnmsub.fmt`, rule R588. -/
def execFnmsubFmt (fmt : Fmt) (rm : Rm) (rd rs1 rs2 rs3 : BitVec 5) (s : State) : Out :=
  legally (fmtFits s fmt) (.fnmsubFmt fmt rm rd rs1 rs2 rs3) s
    (rounded rm (.fnmsubFmt fmt rm rd rs1 rs2 rs3) s
      (fun m => s.retireF rd (s.num.fma fmt m (Fp.fpNeg (s.fpArg fmt rs1)) (s.fpArg fmt rs2) (s.fpArg fmt rs3))))

/-- `fnmadd.fmt`, rule R589. -/
def execFnmaddFmt (fmt : Fmt) (rm : Rm) (rd rs1 rs2 rs3 : BitVec 5) (s : State) : Out :=
  legally (fmtFits s fmt) (.fnmaddFmt fmt rm rd rs1 rs2 rs3) s
    (rounded rm (.fnmaddFmt fmt rm rd rs1 rs2 rs3) s
      (fun m => s.retireF rd (s.num.fma fmt m (Fp.fpNeg (s.fpArg fmt rs1)) (s.fpArg fmt rs2) (Fp.fpNeg (s.fpArg fmt rs3)))))

end Sys2Proof.Machine
end

