-- ==== Sys2Proof/Machine/BaseInt.lean ====
section
/-! DEFINITION. The meanings of the unprefixed integer instructions (rules R500 to R543).
One definition for each arm of `exec`. -/

namespace Sys2Proof.Machine

/-- `lui`, rule R501. -/
def execLui (rd : BitVec 5) (imm : BitVec 20) (s : State) : Out := s.retireX s.cfg.xbits rd (immUpper s.cfg.xbits imm)

/-- `auipc`, rule R502. -/
def execAuipc (rd : BitVec 5) (imm : BitVec 20) (s : State) : Out :=
  s.retireX s.cfg.xbits rd (s.pcAt s.cfg.xbits + immUpper s.cfg.xbits imm)

/-- `addi`, rule R503. -/
def execAddi (rd rs1 : BitVec 5) (imm : BitVec 12) (s : State) : Out := baseI (fun _ => Alu.add) rd rs1 imm s

/-- `slti`, rule R504. -/
def execSlti (rd rs1 : BitVec 5) (imm : BitVec 12) (s : State) : Out := baseI (fun _ => Alu.slt) rd rs1 imm s

/-- `sltiu`, rule R505. -/
def execSltiu (rd rs1 : BitVec 5) (imm : BitVec 12) (s : State) : Out := baseI (fun _ => Alu.sltu) rd rs1 imm s

/-- `xori`, rule R506. -/
def execXori (rd rs1 : BitVec 5) (imm : BitVec 12) (s : State) : Out := baseI (fun _ => Alu.xor) rd rs1 imm s

/-- `ori`, rule R507. -/
def execOri (rd rs1 : BitVec 5) (imm : BitVec 12) (s : State) : Out := baseI (fun _ => Alu.or) rd rs1 imm s

/-- `andi`, rule R508. -/
def execAndi (rd rs1 : BitVec 5) (imm : BitVec 12) (s : State) : Out := baseI (fun _ => Alu.and) rd rs1 imm s

/-- `slli`, rule R509. -/
def execSlli (rd rs1 : BitVec 5) (shamt : BitVec 6) (s : State) : Out :=
  legally (decide (shamt.toNat < s.cfg.xbits)) (.slli rd rs1 shamt) s
    (baseShift (fun _ => Alu.slli) rd rs1 shamt s)

/-- `srli`, rule R510. -/
def execSrli (rd rs1 : BitVec 5) (shamt : BitVec 6) (s : State) : Out :=
  legally (decide (shamt.toNat < s.cfg.xbits)) (.srli rd rs1 shamt) s
    (baseShift (fun _ => Alu.srli) rd rs1 shamt s)

/-- `srai`, rule R511. -/
def execSrai (rd rs1 : BitVec 5) (shamt : BitVec 6) (s : State) : Out :=
  legally (decide (shamt.toNat < s.cfg.xbits)) (.srai rd rs1 shamt) s
    (baseShift (fun _ => Alu.srai) rd rs1 shamt s)

/-- `add`, rule R512. -/
def execAdd (rd rs1 rs2 : BitVec 5) (s : State) : Out := baseR (fun _ => Alu.add) rd rs1 rs2 s

/-- `sub`, rule R513. -/
def execSub (rd rs1 rs2 : BitVec 5) (s : State) : Out := baseR (fun _ => Alu.sub) rd rs1 rs2 s

/-- `sll`, rule R514. -/
def execSll (rd rs1 rs2 : BitVec 5) (s : State) : Out := baseR (fun _ => Alu.sll) rd rs1 rs2 s

/-- `slt`, rule R515. -/
def execSlt (rd rs1 rs2 : BitVec 5) (s : State) : Out := baseR (fun _ => Alu.slt) rd rs1 rs2 s

/-- `sltu`, rule R516. -/
def execSltu (rd rs1 rs2 : BitVec 5) (s : State) : Out := baseR (fun _ => Alu.sltu) rd rs1 rs2 s

/-- `xor`, rule R517. -/
def execXor (rd rs1 rs2 : BitVec 5) (s : State) : Out := baseR (fun _ => Alu.xor) rd rs1 rs2 s

/-- `srl`, rule R518. -/
def execSrl (rd rs1 rs2 : BitVec 5) (s : State) : Out := baseR (fun _ => Alu.srl) rd rs1 rs2 s

/-- `sra`, rule R519. -/
def execSra (rd rs1 rs2 : BitVec 5) (s : State) : Out := baseR (fun _ => Alu.sra) rd rs1 rs2 s

/-- `or`, rule R520. -/
def execOr (rd rs1 rs2 : BitVec 5) (s : State) : Out := baseR (fun _ => Alu.or) rd rs1 rs2 s

/-- `and`, rule R521. -/
def execAnd (rd rs1 rs2 : BitVec 5) (s : State) : Out := baseR (fun _ => Alu.and) rd rs1 rs2 s

/-- `addiw`, rule R522. -/
def execAddiw (rd rs1 : BitVec 5) (imm : BitVec 12) (s : State) : Out :=
  legally (s.cfg.xlen == .rv64) (.addiw rd rs1 imm) s
    (baseI (fun _ => Alu.word Alu.add) rd rs1 imm s)

/-- `slliw`, rule R523. -/
def execSlliw (rd rs1 shamt : BitVec 5) (s : State) : Out :=
  legally (s.cfg.xlen == .rv64) (.slliw rd rs1 shamt) s
    (baseShiftWord Alu.slli rd rs1 shamt s)

/-- `srliw`, rule R524. -/
def execSrliw (rd rs1 shamt : BitVec 5) (s : State) : Out :=
  legally (s.cfg.xlen == .rv64) (.srliw rd rs1 shamt) s
    (baseShiftWord Alu.srli rd rs1 shamt s)

/-- `sraiw`, rule R525. -/
def execSraiw (rd rs1 shamt : BitVec 5) (s : State) : Out :=
  legally (s.cfg.xlen == .rv64) (.sraiw rd rs1 shamt) s
    (baseShiftWord Alu.srai rd rs1 shamt s)

/-- `addw`, rule R526. -/
def execAddw (rd rs1 rs2 : BitVec 5) (s : State) : Out :=
  legally (s.cfg.xlen == .rv64) (.addw rd rs1 rs2) s
    (baseR (fun _ => Alu.word Alu.add) rd rs1 rs2 s)

/-- `subw`, rule R527. -/
def execSubw (rd rs1 rs2 : BitVec 5) (s : State) : Out :=
  legally (s.cfg.xlen == .rv64) (.subw rd rs1 rs2) s
    (baseR (fun _ => Alu.word Alu.sub) rd rs1 rs2 s)

/-- `sllw`, rule R528. -/
def execSllw (rd rs1 rs2 : BitVec 5) (s : State) : Out :=
  legally (s.cfg.xlen == .rv64) (.sllw rd rs1 rs2) s
    (baseR (fun _ => Alu.word Alu.sll) rd rs1 rs2 s)

/-- `srlw`, rule R529. -/
def execSrlw (rd rs1 rs2 : BitVec 5) (s : State) : Out :=
  legally (s.cfg.xlen == .rv64) (.srlw rd rs1 rs2) s
    (baseR (fun _ => Alu.word Alu.srl) rd rs1 rs2 s)

/-- `sraw`, rule R530. -/
def execSraw (rd rs1 rs2 : BitVec 5) (s : State) : Out :=
  legally (s.cfg.xlen == .rv64) (.sraw rd rs1 rs2) s
    (baseR (fun _ => Alu.word Alu.sra) rd rs1 rs2 s)

/-- `mul`, rule R531. -/
def execMul (rd rs1 rs2 : BitVec 5) (s : State) : Out :=
  legally (s.cfg.hasM) (.mul rd rs1 rs2) s
    (baseR (fun _ => Alu.mul) rd rs1 rs2 s)

/-- `mulh`, rule R532. -/
def execMulh (rd rs1 rs2 : BitVec 5) (s : State) : Out :=
  legally (s.cfg.hasM) (.mulh rd rs1 rs2) s
    (baseR (fun _ => Alu.mulh) rd rs1 rs2 s)

/-- `mulhsu`, rule R533. -/
def execMulhsu (rd rs1 rs2 : BitVec 5) (s : State) : Out :=
  legally (s.cfg.hasM) (.mulhsu rd rs1 rs2) s
    (baseR (fun _ => Alu.mulhsu) rd rs1 rs2 s)

/-- `mulhu`, rule R534. -/
def execMulhu (rd rs1 rs2 : BitVec 5) (s : State) : Out :=
  legally (s.cfg.hasM) (.mulhu rd rs1 rs2) s
    (baseR (fun _ => Alu.mulhu) rd rs1 rs2 s)

/-- `div`, rule R535. -/
def execDiv (rd rs1 rs2 : BitVec 5) (s : State) : Out :=
  legally (s.cfg.hasM) (.div rd rs1 rs2) s
    (baseR (fun _ => Alu.div) rd rs1 rs2 s)

/-- `divu`, rule R536. -/
def execDivu (rd rs1 rs2 : BitVec 5) (s : State) : Out :=
  legally (s.cfg.hasM) (.divu rd rs1 rs2) s
    (baseR (fun _ => Alu.divu) rd rs1 rs2 s)

/-- `rem`, rule R537. -/
def execRem (rd rs1 rs2 : BitVec 5) (s : State) : Out :=
  legally (s.cfg.hasM) (.rem rd rs1 rs2) s
    (baseR (fun _ => Alu.rem) rd rs1 rs2 s)

/-- `remu`, rule R538. -/
def execRemu (rd rs1 rs2 : BitVec 5) (s : State) : Out :=
  legally (s.cfg.hasM) (.remu rd rs1 rs2) s
    (baseR (fun _ => Alu.remu) rd rs1 rs2 s)

/-- `mulw`, rule R539. -/
def execMulw (rd rs1 rs2 : BitVec 5) (s : State) : Out :=
  legally (s.cfg.xlen == .rv64 && s.cfg.hasM) (.mulw rd rs1 rs2) s
    (baseR (fun _ => Alu.word Alu.mul) rd rs1 rs2 s)

/-- `divw`, rule R540. -/
def execDivw (rd rs1 rs2 : BitVec 5) (s : State) : Out :=
  legally (s.cfg.xlen == .rv64 && s.cfg.hasM) (.divw rd rs1 rs2) s
    (baseR (fun _ => Alu.word Alu.div) rd rs1 rs2 s)

/-- `divuw`, rule R541. -/
def execDivuw (rd rs1 rs2 : BitVec 5) (s : State) : Out :=
  legally (s.cfg.xlen == .rv64 && s.cfg.hasM) (.divuw rd rs1 rs2) s
    (baseR (fun _ => Alu.word Alu.divu) rd rs1 rs2 s)

/-- `remw`, rule R542. -/
def execRemw (rd rs1 rs2 : BitVec 5) (s : State) : Out :=
  legally (s.cfg.xlen == .rv64 && s.cfg.hasM) (.remw rd rs1 rs2) s
    (baseR (fun _ => Alu.word Alu.rem) rd rs1 rs2 s)

/-- `remuw`, rule R543. -/
def execRemuw (rd rs1 rs2 : BitVec 5) (s : State) : Out :=
  legally (s.cfg.xlen == .rv64 && s.cfg.hasM) (.remuw rd rs1 rs2) s
    (baseR (fun _ => Alu.word Alu.remu) rd rs1 rs2 s)

end Sys2Proof.Machine
end

