-- ==== Sys2Proof/Machine/BaseMem.lean ====
section
/-! DEFINITION. The meanings of the unprefixed loads and stores (rules R123, R124, R544 to R555, R590 to R595).
One definition for each arm of `exec`. -/

namespace Sys2Proof.Machine

/-- `lb`, rule R545. -/
def execLb (rd rs1 : BitVec 5) (imm : BitVec 12) (s : State) : Out := loadSigned 8 rd rs1 imm s

/-- `lh`, rule R546. -/
def execLh (rd rs1 : BitVec 5) (imm : BitVec 12) (s : State) : Out := loadSigned 16 rd rs1 imm s

/-- `lw`, rule R547. -/
def execLw (rd rs1 : BitVec 5) (imm : BitVec 12) (s : State) : Out := loadSigned 32 rd rs1 imm s

/-- `ld`, rule R548. -/
def execLd (rd rs1 : BitVec 5) (imm : BitVec 12) (s : State) : Out :=
  legally (s.cfg.xlen == .rv64) (.ld rd rs1 imm) s
    (loadUnsigned 64 rd rs1 imm s)

/-- `lbu`, rule R549. -/
def execLbu (rd rs1 : BitVec 5) (imm : BitVec 12) (s : State) : Out := loadUnsigned 8 rd rs1 imm s

/-- `lhu`, rule R550. -/
def execLhu (rd rs1 : BitVec 5) (imm : BitVec 12) (s : State) : Out := loadUnsigned 16 rd rs1 imm s

/-- `lwu`, rule R551. -/
def execLwu (rd rs1 : BitVec 5) (imm : BitVec 12) (s : State) : Out :=
  legally (s.cfg.xlen == .rv64) (.lwu rd rs1 imm) s
    (loadUnsigned 32 rd rs1 imm s)

/-- `sb`, rule R552. -/
def execSb (rs2 rs1 : BitVec 5) (imm : BitVec 12) (s : State) : Out := storeX 8 rs2 rs1 imm s

/-- `sh`, rule R553. -/
def execSh (rs2 rs1 : BitVec 5) (imm : BitVec 12) (s : State) : Out := storeX 16 rs2 rs1 imm s

/-- `sw`, rule R554. -/
def execSw (rs2 rs1 : BitVec 5) (imm : BitVec 12) (s : State) : Out := storeX 32 rs2 rs1 imm s

/-- `sd`, rule R555. -/
def execSd (rs2 rs1 : BitVec 5) (imm : BitVec 12) (s : State) : Out :=
  legally (s.cfg.xlen == .rv64) (.sd rs2 rs1 imm) s
    (storeX 64 rs2 rs1 imm s)

/-- `flw`, rule R590. -/
def execFlw (rd rs1 : BitVec 5) (imm : BitVec 12) (s : State) : Out :=
  legally (decide (32 ≤ s.cfg.fbits)) (.flw rd rs1 imm) s
    (loadF 32 rd rs1 imm s)

/-- `fld`, rule R591. -/
def execFld (rd rs1 : BitVec 5) (imm : BitVec 12) (s : State) : Out :=
  legally (decide (64 ≤ s.cfg.fbits)) (.fld rd rs1 imm) s
    (loadF 64 rd rs1 imm s)

/-- `flq`, rule R592. -/
def execFlq (rd rs1 : BitVec 5) (imm : BitVec 12) (s : State) : Out :=
  legally (decide (128 ≤ s.cfg.fbits)) (.flq rd rs1 imm) s
    (loadF 128 rd rs1 imm s)

/-- `fsw`, rule R593. -/
def execFsw (rs2 rs1 : BitVec 5) (imm : BitVec 12) (s : State) : Out :=
  legally (decide (32 ≤ s.cfg.fbits)) (.fsw rs2 rs1 imm) s
    (storeF 32 rs2 rs1 imm s)

/-- `fsd`, rule R594. -/
def execFsd (rs2 rs1 : BitVec 5) (imm : BitVec 12) (s : State) : Out :=
  legally (decide (64 ≤ s.cfg.fbits)) (.fsd rs2 rs1 imm) s
    (storeF 64 rs2 rs1 imm s)

/-- `fsq`, rule R595. -/
def execFsq (rs2 rs1 : BitVec 5) (imm : BitVec 12) (s : State) : Out :=
  legally (decide (128 ≤ s.cfg.fbits)) (.fsq rs2 rs1 imm) s
    (storeF 128 rs2 rs1 imm s)

/-- `flh`, rule R123. -/
def execFlh (rd rs1 : BitVec 5) (imm : BitVec 12) (s : State) : Out :=
  legally (decide (16 ≤ s.cfg.fbits)) (.flh rd rs1 imm) s
    (loadF 16 rd rs1 imm s)

/-- `fsh`, rule R124. -/
def execFsh (rs2 rs1 : BitVec 5) (imm : BitVec 12) (s : State) : Out :=
  legally (decide (16 ≤ s.cfg.fbits)) (.fsh rs2 rs1 imm) s
    (storeF 16 rs2 rs1 imm s)

end Sys2Proof.Machine
end

