-- ==== Sys2Proof/Machine/Control.lean ====
section
/-! DEFINITION. The meanings of the control transfers (rules R340 to R349).
One definition for each arm of `exec`. -/

namespace Sys2Proof.Machine

/-- `jal`, rule R340. -/
def execJal (rd : BitVec 5) (imm : BitVec 20) (s : State) : Out :=
  let w := s.cfg.xbits
  .next ((s.putX w rd.toNat (s.pcAt w + BitVec.ofNat w 4)).goto w (s.pcAt w + immJump w imm))

/-- `jalr`, rule R341. -/
def execJalr (rd rs1 : BitVec 5) (imm : BitVec 12) (s : State) : Out :=
  let w := s.cfg.xbits
  .next ((s.putX w rd.toNat (s.pcAt w + BitVec.ofNat w 4)).goto w
    ((s.getX w rs1.toNat + immIS w imm) &&& ~~~(BitVec.ofNat w 1)))

/-- `beq`, rule R342. -/
def execBeq (rs1 rs2 : BitVec 5) (imm : BitVec 12) (s : State) : Out :=
  branchIf ((s.getX s.cfg.xbits rs1.toNat) == (s.getX s.cfg.xbits rs2.toNat)) imm s

/-- `bne`, rule R343. -/
def execBne (rs1 rs2 : BitVec 5) (imm : BitVec 12) (s : State) : Out :=
  branchIf ((s.getX s.cfg.xbits rs1.toNat) != (s.getX s.cfg.xbits rs2.toNat)) imm s

/-- `blt`, rule R344. -/
def execBlt (rs1 rs2 : BitVec 5) (imm : BitVec 12) (s : State) : Out :=
  branchIf (decide ((s.getX s.cfg.xbits rs1.toNat).toInt < (s.getX s.cfg.xbits rs2.toNat).toInt)) imm s

/-- `bge`, rule R345. -/
def execBge (rs1 rs2 : BitVec 5) (imm : BitVec 12) (s : State) : Out :=
  branchIf (decide ((s.getX s.cfg.xbits rs2.toNat).toInt ≤ (s.getX s.cfg.xbits rs1.toNat).toInt)) imm s

/-- `bltu`, rule R346. -/
def execBltu (rs1 rs2 : BitVec 5) (imm : BitVec 12) (s : State) : Out :=
  branchIf (decide ((s.getX s.cfg.xbits rs1.toNat).toNat < (s.getX s.cfg.xbits rs2.toNat).toNat)) imm s

/-- `bgeu`, rule R347. -/
def execBgeu (rs1 rs2 : BitVec 5) (imm : BitVec 12) (s : State) : Out :=
  branchIf (decide ((s.getX s.cfg.xbits rs2.toNat).toNat ≤ (s.getX s.cfg.xbits rs1.toNat).toNat)) imm s

end Sys2Proof.Machine
end

