-- ==== Sys2Proof/Machine/Setvl.lean ====
section
/-! DEFINITION. The meaning of `setvl` (rules R310 to R316). -/

namespace Sys2Proof.Machine

/-- The value VL takes (rule R311, steps 2 to 5), on unbounded integers: `useImm` is the test of step 2 that the
register number rs1 is 0. -/
def newVl (c : Config) (useImm : Bool) (imm avl : Nat) : Nat :=
  if useImm then imm
  else if 2 * imm < avl then
    match c.setvlStep3 with
    | .xlen => c.xbits
    | .imm => imm
  else if imm < avl then avl / 2
  else avl

/-- `setvl`, rule R311; step 1's exception records the word `imm.insn`. -/
def execSetvl (rd rs1 : BitVec 5) (imm : SetvlImm) (s : State) : Out :=
  let w := s.cfg.xbits
  let v := newVl s.cfg (rs1 == 0#5) imm.value (s.getX w rs1.toNat).toNat
  legally (decide (imm.value ≤ w)) (.setvl rd rs1 imm) s
    (.next (((s.setVl v).putX w rd.toNat (BitVec.ofNat w v)).advance s.cfg.setvlEnc.len))

end Sys2Proof.Machine
end

