-- ==== Sys2Proof/Machine/Prefixed.lean ====
section
/-! DEFINITION. The loop that every prefixed instruction runs (rules R130 to R149) and the generic sub-vector operations:
element-wise (rules R191, R230, R247, R266), load (rule R164) and store (rule R165). -/

namespace Sys2Proof.Machine

/-- What a sub-vector operation returns instead of writes (rules R136, R144, R149): an exception, or a model fault. -/
inductive Stop where
  | exception (e : Exc) (info : Nat)
  | modelFault (r : Fault)
  deriving DecidableEq, Repr

/-- A sub-vector operation (rule R136), as two functions of the state before it and the index: what stops it, and the
state with its writes committed where nothing does. -/
structure SubOp where
  check  : State → Nat → Option Stop
  commit : State → Nat → State

/-- How the loop ends: all indices done, or stopped at one, in the state that the lower indices left. -/
inductive LoopEnd where
  | done (s : State)
  | stopped (i : Nat) (why : Stop) (s : State)

/-- The loop of rule R138 over `n` indices from `i` on, ascending (rules R140, R141, R144). -/
def subLoop (en : Nat → Bool) (op : SubOp) : Nat → Nat → State → LoopEnd
  | 0, _, s => .done s
  | n + 1, i, s =>
    if en i then
      match op.check s i with
      | none => subLoop en op n (i + 1) (op.commit s i)
      | some st => .stopped i st s
    else subLoop en op n (i + 1) s

/-- The end of rule R138: a vector instruction that completes clears Vstart (rule R143), one that traps leaves the
failing index there (rule R144); a scalar one touches neither (rules R132, R149); completion advances the pc by 6. -/
def finish (isvec : Bool) : LoopEnd → Out
  | .done s => .next ((if isvec then s.setVstart 0 else s).advance 6)
  | .stopped i (.exception e info) s => raise e info (if isvec then s.setVstart i else s)
  | .stopped _ (.modelFault r) _ => .fault r

/-- `ExecPrefixed` of rule R138. The predicate is sampled from the state at the start (rule R134). -/
def execPrefixed (isvec : Bool) (p : Pred) (op : SubOp) (s : State) : Out :=
  finish isvec
    (if isvec then subLoop (enabled p s) op (s.vl - s.vstart) s.vstart s else subLoop (enabled p s) op 1 0 s)

/-- The first stop among element indices `j`, `j + 1`, .. (`n` of them), ascending (rule R385). -/
def firstStop (f : Nat → Option Stop) : Nat → Nat → Option Stop
  | 0, _ => none
  | n + 1, j =>
    match f j with
    | some st => some st
    | none => firstStop f n (j + 1)

/-- The first of two stops. -/
def Stop.orElse (a b : Option Stop) : Option Stop :=
  match a with
  | some st => some st
  | none => b

/-- Commits element writes `j`, `j + 1`, .. (`n` of them) in ascending order (rule R141). -/
def putEach (put : State → Nat → State) : Nat → Nat → State → State
  | 0, _, s => s
  | n + 1, j, s => putEach put n (j + 1) (put s j)

/-- The OR of the flags of elements `j`, `j + 1`, .. (`n` of them) (rule R264). -/
def flagsOf (f : Nat → BitVec 5) : Nat → Nat → BitVec 5
  | 0, _ => 0#5
  | n + 1, j => f j ||| flagsOf f n (j + 1)

/-- An operand with the width of its elements. -/
abbrev SizedOpd := Opd × Nat

/-- The overruns of one element of each source, in order. -/
def sourceStop (srcs : List SizedOpd) (s : State) (svlen i j : Nat) : Option Stop :=
  match srcs with
  | [] => none
  | (o, w) :: rest => Stop.orElse ((o.overrun s w svlen i j).map .modelFault) (sourceStop rest s svlen i j)

/-- The overruns of the destination, ascending in `j`. -/
def destStop (dst : Opd) (w : Nat) (s : State) (svlen i : Nat) : Option Stop :=
  firstStop (fun j => (dst.overrun s w svlen i j).map .modelFault) svlen 0

/-- Writes result `f j` to destination element `j` for every `j`, then ORs in the flags. -/
def commitElems (dst : Opd) (w svlen i : Nat) (f : Nat → Fp.Res w) (s : State) : State :=
  (putEach (fun t j => dst.put t w svlen i j (f j).1) svlen 0 s).orFlags (flagsOf (fun j => (f j).2) svlen 0)

/-- The generic element-wise sub-vector operation (rules R191, R230, R247, R266): `f s i j` is result element `j` of
sub-vector `i` with its flags, computed from the elements of `srcs` in the state before the sub-vector. -/
def elementwise (svlen : Nat) (dst : Opd) (w : Nat) (srcs : List SizedOpd) (f : State → Nat → Nat → Fp.Res w) : SubOp :=
  { check := fun s i =>
      Stop.orElse (firstStop (fun j => sourceStop srcs s svlen i j) svlen 0) (destStop dst w s svlen i),
    commit := fun s i => commitElems dst w svlen i (f s i) s }

/-- What stops one element of a load, in the order of rule R164: its address, then `CheckAccess`. -/
def loadStop (o : MemOps) (s0 s : State) (w svlen i j : Nat) : Option Stop :=
  let a := (effAddr s.cfg.xbits o s0 s svlen (w / 8) i j).toNat
  Stop.orElse
    (if addrIsV s0.cfg o then ((addrOpd o).overrun s s.cfg.xbits 1 i 0).map .modelFault else none)
    ((s.checkAccess a (w / 8) .load).map (fun e => .exception e a))

/-- `SubOp_load` of rule R164; `s0` is the state at the start of the instruction (rule R134). -/
def loadOp (dst : Opd) (w : Nat) (o : MemOps) (s0 : State) : SubOp :=
  let n := o.vtp.svlen.count
  { check := fun s i =>
      Stop.orElse (firstStop (fun j => loadStop o s0 s w n i j) n 0) (destStop dst w s n i),
    commit := fun s i =>
      putEach (fun t j => dst.put t w n i j (s.memGet (effAddr s.cfg.xbits o s0 s n (w / 8) i j).toNat w)) n 0 s }

/-- The store to the program text of element `j`, if it is one (rule R64). -/
def textStop (o : MemOps) (s0 s : State) (w svlen i j : Nat) : Option Stop :=
  let a := (effAddr s.cfg.xbits o s0 s svlen (w / 8) i j).toNat
  if s.hitsText a (w / 8) then some (.modelFault (.storeToText a)) else none

/-- What stops one element of a store, in the order of rule R165: its address, the data read, then `CheckAccess`. -/
def storeStop (src : Opd) (o : MemOps) (s0 s : State) (w svlen i j : Nat) : Option Stop :=
  let a := (effAddr s.cfg.xbits o s0 s svlen (w / 8) i j).toNat
  Stop.orElse
    (if addrIsV s0.cfg o then ((addrOpd o).overrun s s.cfg.xbits 1 i 0).map .modelFault else none)
    (Stop.orElse ((src.overrun s w svlen i j).map .modelFault)
      ((s.checkAccess a (w / 8) .store).map (fun e => .exception e a)))

/-- `SubOp_store` of rule R165: every element is checked before any is written. -/
def storeOp (src : Opd) (w : Nat) (o : MemOps) (s0 : State) : SubOp :=
  let n := o.vtp.svlen.count
  { check := fun s i =>
      Stop.orElse
        (firstStop (fun j => storeStop src o s0 s w n i j) n 0)
        (firstStop (fun j => textStop o s0 s w n i j) n 0),
    commit := fun s i =>
      putEach (fun t j => t.memPut (effAddr s.cfg.xbits o s0 s n (w / 8) i j).toNat w (src.get s w n i j)) n 0 s }

/-! ## The forms -/

/-- Whether a prefixed load or store is a vector instruction (rules R132, R162). -/
def memIsVec (s : State) : Bool := dataIsV s.cfg

/-- A prefixed load of `w`-bit elements to file `file` (rules R160 to R164). -/
def svLoad (file : RegFile) (w : Nat) (o : MemOps) (s : State) : Out :=
  execPrefixed (memIsVec s) o.vtp.pred
    (loadOp { file := file, num := regNum o.data (dataIsV s.cfg), isV := dataIsV s.cfg } w o s) s

/-- A prefixed store of `w`-bit elements from file `file` (rules R160 to R165). -/
def svStore (file : RegFile) (w : Nat) (o : MemOps) (s : State) : Out :=
  execPrefixed (memIsVec s) o.vtp.pred
    (storeOp { file := file, num := regNum o.data (dataIsV s.cfg), isV := dataIsV s.cfg } w o s) s

/-- P48R: `SubOp_R` of rule R191 with element function `f`; rd is a vector where a source is (rule R190). -/
def svIntR (f : (w : Nat) → BitVec w → BitVec w → BitVec w) (o : ROps) (s : State) : Out :=
  let w := o.vitp.itype.width s.cfg.xbits
  let n := o.vitp.svlen.count
  let r1 := xOpd o.rs1 o.vs1
  let r2 := xOpd o.rs2 o.vs2
  execPrefixed (o.vs1 || o.vs2) o.vitp.pred
    (elementwise n (xOpd o.rd (o.vs1 || o.vs2)) w [(r1, w), (r2, w)]
      (fun t i j => Fp.noFlags (f w (r1.get t w n i j) (r2.get t w n i j)))) s

/-- P48I: `SubOp_I` of rule R230 with element function `g a m`. -/
def svIntI (g : (w : Nat) → BitVec w → BitVec w → BitVec w) (o : IOps) (s : State) : Out :=
  let w := o.vitp.itype.width s.cfg.xbits
  let n := o.vitp.svlen.count
  let r1 := xOpd o.rs1 o.vs1
  execPrefixed (o.vd || o.vs1) o.vitp.pred
    (elementwise n (xOpd o.rd o.vd) w [(r1, w)]
      (fun t i j => Fp.noFlags (g w (r1.get t w n i j) (immElem s.cfg.xbits w o.imm)))) s

/-- Shift-immediate P48I: `SubOp_I` of rule R230 with element function `g shamt a` (rules R233, R240). -/
def svShift (g : (w : Nat) → Nat → BitVec w → BitVec w) (o : ShOps) (s : State) : Out :=
  let w := o.vitp.itype.width s.cfg.xbits
  let n := o.vitp.svlen.count
  let r1 := xOpd o.rs1 o.vs1
  execPrefixed (o.vd || o.vs1) o.vitp.pred
    (elementwise n (xOpd o.rd o.vd) w [(r1, w)]
      (fun t i j => Fp.noFlags (g w o.shamt.toNat (r1.get t w n i j)))) s

/-- P48U: `SubOp_U` of rule R247 with the XLEN-bit value `v`. -/
def svUpper (v : (xlen : Nat) → BitVec xlen) (o : UOps) (s : State) : Out :=
  let w := o.vitp.itype.width s.cfg.xbits
  let n := o.vitp.svlen.count
  execPrefixed o.vd o.vitp.pred
    (elementwise n (xOpd o.rd o.vd) w [] (fun _ _ _ => Fp.noFlags ((v s.cfg.xbits).setWidth w))) s

/-- P48FR: `SubOp_FR` of rule R266; `file`, `wd` are those of the destination. -/
def svFr (file : RegFile) (wd : Nat) (o : FrOps) (f : BitVec o.fmt.width → BitVec o.fmt.width → Fp.Res wd) (s : State) :
    Out :=
  let w := o.fmt.width
  let n := o.vtp.svlen.count
  let r1 := fOpd o.rs1 o.vs1
  let r2 := fOpd o.rs2 o.vs2
  execPrefixed (o.vs1 || o.vs2) o.vtp.pred
    (elementwise n { file := file, num := regNum o.rd (o.vs1 || o.vs2), isV := o.vs1 || o.vs2 } wd [(r1, w), (r2, w)]
      (fun t i j => f (r1.get t w n i j) (r2.get t w n i j))) s

/-- P48FI: `SubOp_FI` of rule R266; `fd`, `wd` and `fs`, `ws` are those of the destination and the source. -/
def svFi (fd : RegFile) (wd : Nat) (fs : RegFile) (ws : Nat) (o : FiOps) (f : BitVec ws → Fp.Res wd) (s : State) : Out :=
  let n := o.vtp.svlen.count
  let r1 : Opd := { file := fs, num := regNum o.rs1 o.vs1, isV := o.vs1 }
  execPrefixed (o.vd || o.vs1) o.vtp.pred
    (elementwise n { file := fd, num := regNum o.rd o.vd, isV := o.vd } wd [(r1, ws)]
      (fun t i j => f (r1.get t ws n i j))) s

/-- P48FR4: `SubOp_FR4` of rule R266; rs1 and rd take class `vs2 OR vs3` (rule R294). -/
def svFr4 (o : Fr4Ops) (f : BitVec o.fmt.width → BitVec o.fmt.width → BitVec o.fmt.width → Fp.Res o.fmt.width)
    (s : State) : Out :=
  let w := o.fmt.width
  let n := o.vtp.svlen.count
  let v := o.vs2 || o.vs3
  let r1 := fOpd o.rs1 v
  let r2 := fOpd o.rs2 o.vs2
  let r3 := fOpd o.rs3 o.vs3
  execPrefixed v o.vtp.pred
    (elementwise n (fOpd o.rd v) w [(r1, w), (r2, w), (r3, w)]
      (fun t i j => f (r1.get t w n i j) (r2.get t w n i j) (r3.get t w n i j))) s

end Sys2Proof.Machine
end

