-- ==== Sys2Proof/Machine/SvFloat.lean ====
section
/-! DEFINITION. The meanings of the prefixed FP instructions (rules R260 to R299).
One definition for each arm of `exec`. -/

namespace Sys2Proof.Machine

/-- `sv.fadd.fmt`, rule R268. -/
def execSvFaddFmt (rm : Rm) (o : FrOps) (s : State) : Out :=
  legally (fmtFits s o.fmt) (.svFaddFmt rm o) s
    (rounded rm (.svFaddFmt rm o) s (fun m => svFr .fp o.fmt.width o (s.num.add o.fmt m) s))

/-- `sv.fsub.fmt`, rule R269. -/
def execSvFsubFmt (rm : Rm) (o : FrOps) (s : State) : Out :=
  legally (fmtFits s o.fmt) (.svFsubFmt rm o) s
    (rounded rm (.svFsubFmt rm o) s (fun m => svFr .fp o.fmt.width o (s.num.sub o.fmt m) s))

/-- `sv.fmul.fmt`, rule R270. -/
def execSvFmulFmt (rm : Rm) (o : FrOps) (s : State) : Out :=
  legally (fmtFits s o.fmt) (.svFmulFmt rm o) s
    (rounded rm (.svFmulFmt rm o) s (fun m => svFr .fp o.fmt.width o (s.num.mul o.fmt m) s))

/-- `sv.fdiv.fmt`, rule R271. -/
def execSvFdivFmt (rm : Rm) (o : FrOps) (s : State) : Out :=
  legally (fmtFits s o.fmt) (.svFdivFmt rm o) s
    (rounded rm (.svFdivFmt rm o) s (fun m => svFr .fp o.fmt.width o (s.num.div o.fmt m) s))

/-- `sv.fsgnj.fmt`, rule R272. -/
def execSvFsgnjFmt (o : FrOps) (s : State) : Out :=
  legally (fmtFits s o.fmt) (.svFsgnjFmt o) s
    (svFr .fp o.fmt.width o (fun a b => Fp.noFlags (Fp.sgnj a b)) s)

/-- `sv.fsgnjn.fmt`, rule R273. -/
def execSvFsgnjnFmt (o : FrOps) (s : State) : Out :=
  legally (fmtFits s o.fmt) (.svFsgnjnFmt o) s
    (svFr .fp o.fmt.width o (fun a b => Fp.noFlags (Fp.sgnjn a b)) s)

/-- `sv.fsgnjx.fmt`, rule R274. -/
def execSvFsgnjxFmt (o : FrOps) (s : State) : Out :=
  legally (fmtFits s o.fmt) (.svFsgnjxFmt o) s
    (svFr .fp o.fmt.width o (fun a b => Fp.noFlags (Fp.sgnjx a b)) s)

/-- `sv.fmin.fmt`, rule R275. -/
def execSvFminFmt (o : FrOps) (s : State) : Out :=
  legally (fmtFits s o.fmt) (.svFminFmt o) s
    (svFr .fp o.fmt.width o (s.num.min o.fmt) s)

/-- `sv.fmax.fmt`, rule R276. -/
def execSvFmaxFmt (o : FrOps) (s : State) : Out :=
  legally (fmtFits s o.fmt) (.svFmaxFmt o) s
    (svFr .fp o.fmt.width o (s.num.max o.fmt) s)

/-- `sv.feq.fmt`, rule R277. -/
def execSvFeqFmt (o : FrOps) (s : State) : Out :=
  legally (fmtFits s o.fmt) (.svFeqFmt o) s
    (svFr .x s.cfg.xbits o (fun a b => Fp.ofBool s.cfg.xbits (s.num.eq o.fmt a b)) s)

/-- `sv.flt.fmt`, rule R278. -/
def execSvFltFmt (o : FrOps) (s : State) : Out :=
  legally (fmtFits s o.fmt) (.svFltFmt o) s
    (svFr .x s.cfg.xbits o (fun a b => Fp.ofBool s.cfg.xbits (s.num.lt o.fmt a b)) s)

/-- `sv.fle.fmt`, rule R279. -/
def execSvFleFmt (o : FrOps) (s : State) : Out :=
  legally (fmtFits s o.fmt) (.svFleFmt o) s
    (svFr .x s.cfg.xbits o (fun a b => Fp.ofBool s.cfg.xbits (s.num.le o.fmt a b)) s)

/-- `sv.fsqrt.fmt`, rule R280. -/
def execSvFsqrtFmt (rm : Rm) (o : FiOps) (s : State) : Out :=
  legally (fmtFits s o.fmt) (.svFsqrtFmt rm o) s
    (rounded rm (.svFsqrtFmt rm o) s (fun m => svFi .fp o.fmt.width .fp o.fmt.width o (s.num.sqrt o.fmt m) s))

/-- `sv.fcvt.w.fmt`, rule R281. -/
def execSvFcvtWFmt (rm : Rm) (o : FiOps) (s : State) : Out :=
  legally (fmtFits s o.fmt) (.svFcvtWFmt rm o) s
    (rounded rm (.svFcvtWFmt rm o) s (fun m => svFi .x 32 .fp o.fmt.width o (s.num.toInt o.fmt 32 true m) s))

/-- `sv.fcvt.wu.fmt`, rule R282. -/
def execSvFcvtWuFmt (rm : Rm) (o : FiOps) (s : State) : Out :=
  legally (fmtFits s o.fmt) (.svFcvtWuFmt rm o) s
    (rounded rm (.svFcvtWuFmt rm o) s (fun m => svFi .x 32 .fp o.fmt.width o (s.num.toInt o.fmt 32 false m) s))

/-- `sv.fcvt.l.fmt`, rule R283. -/
def execSvFcvtLFmt (rm : Rm) (o : FiOps) (s : State) : Out :=
  legally (fmtFits s o.fmt && s.cfg.xlen == .rv64) (.svFcvtLFmt rm o) s
    (rounded rm (.svFcvtLFmt rm o) s (fun m => svFi .x 64 .fp o.fmt.width o (s.num.toInt o.fmt 64 true m) s))

/-- `sv.fcvt.lu.fmt`, rule R284. -/
def execSvFcvtLuFmt (rm : Rm) (o : FiOps) (s : State) : Out :=
  legally (fmtFits s o.fmt && s.cfg.xlen == .rv64) (.svFcvtLuFmt rm o) s
    (rounded rm (.svFcvtLuFmt rm o) s (fun m => svFi .x 64 .fp o.fmt.width o (s.num.toInt o.fmt 64 false m) s))

/-- `sv.fcvt.fmt.w`, rule R285. -/
def execSvFcvtFmtW (rm : Rm) (o : FiOps) (s : State) : Out :=
  legally (fmtFits s o.fmt) (.svFcvtFmtW rm o) s
    (rounded rm (.svFcvtFmtW rm o) s (fun m => svFi .fp o.fmt.width .x 32 o (s.num.ofInt o.fmt 32 true m) s))

/-- `sv.fcvt.fmt.wu`, rule R286. -/
def execSvFcvtFmtWu (rm : Rm) (o : FiOps) (s : State) : Out :=
  legally (fmtFits s o.fmt) (.svFcvtFmtWu rm o) s
    (rounded rm (.svFcvtFmtWu rm o) s (fun m => svFi .fp o.fmt.width .x 32 o (s.num.ofInt o.fmt 32 false m) s))

/-- `sv.fcvt.fmt.l`, rule R287. -/
def execSvFcvtFmtL (rm : Rm) (o : FiOps) (s : State) : Out :=
  legally (fmtFits s o.fmt && s.cfg.xlen == .rv64) (.svFcvtFmtL rm o) s
    (rounded rm (.svFcvtFmtL rm o) s (fun m => svFi .fp o.fmt.width .x 64 o (s.num.ofInt o.fmt 64 true m) s))

/-- `sv.fcvt.fmt.lu`, rule R288. -/
def execSvFcvtFmtLu (rm : Rm) (o : FiOps) (s : State) : Out :=
  legally (fmtFits s o.fmt && s.cfg.xlen == .rv64) (.svFcvtFmtLu rm o) s
    (rounded rm (.svFcvtFmtLu rm o) s (fun m => svFi .fp o.fmt.width .x 64 o (s.num.ofInt o.fmt 64 false m) s))

/-- `sv.fmv.x.fmt`, rule R290. -/
def execSvFmvXFmt (o : FiOps) (s : State) : Out :=
  legally (fmtFits s o.fmt && decide (o.fmt.width ≤ s.cfg.xbits)) (.svFmvXFmt o) s
    (svFi .x o.fmt.width .fp o.fmt.width o Fp.noFlags s)

/-- `sv.fmv.fmt.x`, rule R291. -/
def execSvFmvFmtX (o : FiOps) (s : State) : Out :=
  legally (fmtFits s o.fmt && decide (o.fmt.width ≤ s.cfg.xbits)) (.svFmvFmtX o) s
    (svFi .fp o.fmt.width .x o.fmt.width o Fp.noFlags s)

/-- `sv.fclass.fmt`, rule R293. -/
def execSvFclassFmt (o : FiOps) (s : State) : Out :=
  legally (fmtFits s o.fmt) (.svFclassFmt o) s
    (svFi .x s.cfg.xbits .fp o.fmt.width o (fun a => Fp.noFlags ((s.num.classify o.fmt a).setWidth s.cfg.xbits)) s)

/-- `sv.fcvt.fmt.fmt`, rule R289. -/
def execSvFcvtFmtFmt (src : Fmt) (rm : Rm) (o : FiOps) (s : State) : Out :=
  legally (fmtFits s o.fmt && fmtFits s src && src != o.fmt) (.svFcvtFmtFmt src rm o) s
    (rounded rm (.svFcvtFmtFmt src rm o) s (fun m => svFi .fp o.fmt.width .fp src.width o (s.num.cvt o.fmt src m) s))

/-- `sv.fmadd.fmt`, rule R295. -/
def execSvFmaddFmt (rm : Rm) (o : Fr4Ops) (s : State) : Out :=
  legally (fmtFits s o.fmt) (.svFmaddFmt rm o) s
    (rounded rm (.svFmaddFmt rm o) s (fun m => svFr4 o (fun a b c => s.num.fma o.fmt m a b c) s))

/-- `sv.fmsub.fmt`, rule R296. -/
def execSvFmsubFmt (rm : Rm) (o : Fr4Ops) (s : State) : Out :=
  legally (fmtFits s o.fmt) (.svFmsubFmt rm o) s
    (rounded rm (.svFmsubFmt rm o) s (fun m => svFr4 o (fun a b c => s.num.fma o.fmt m a b (Fp.fpNeg c)) s))

/-- `sv.fnmsub.fmt`, rule R297. -/
def execSvFnmsubFmt (rm : Rm) (o : Fr4Ops) (s : State) : Out :=
  legally (fmtFits s o.fmt) (.svFnmsubFmt rm o) s
    (rounded rm (.svFnmsubFmt rm o) s (fun m => svFr4 o (fun a b c => s.num.fma o.fmt m (Fp.fpNeg a) b c) s))

/-- `sv.fnmadd.fmt`, rule R298. -/
def execSvFnmaddFmt (rm : Rm) (o : Fr4Ops) (s : State) : Out :=
  legally (fmtFits s o.fmt) (.svFnmaddFmt rm o) s
    (rounded rm (.svFnmaddFmt rm o) s
      (fun m => svFr4 o (fun a b c => s.num.fma o.fmt m (Fp.fpNeg a) b (Fp.fpNeg c)) s))

end Sys2Proof.Machine
end

