-- ==== Sys2Proof/Machine/SvIntI.lean ====
section
/-! DEFINITION. The meanings of the P48I and P48U integer instructions (rules R230 to R250).
One definition for each arm of `exec`. -/

namespace Sys2Proof.Machine

/-- `sv.addi`, rule R231. -/
def execSvAddi (o : IOps) (s : State) : Out := svIntI (fun _ => Alu.add) o s

/-- `sv.slti`, rule R235. -/
def execSvSlti (o : IOps) (s : State) : Out := svIntI (fun _ => Alu.slt) o s

/-- `sv.sltiu`, rule R236. -/
def execSvSltiu (o : IOps) (s : State) : Out := svIntI (fun _ => Alu.sltu) o s

/-- `sv.xori`, rule R237. -/
def execSvXori (o : IOps) (s : State) : Out := svIntI (fun _ => Alu.xor) o s

/-- `sv.ori`, rule R238. -/
def execSvOri (o : IOps) (s : State) : Out := svIntI (fun _ => Alu.or) o s

/-- `sv.andi`, rule R239. -/
def execSvAndi (o : IOps) (s : State) : Out := svIntI (fun _ => Alu.and) o s

/-- `sv.slli`, rule R240. -/
def execSvSlli (o : ShOps) (s : State) : Out :=
  legally (decide (o.shamt.toNat < o.vitp.itype.width s.cfg.xbits)) (.svSlli o) s
    (svShift (fun _ => Alu.slli) o s)

/-- `sv.srli`, rule R241. -/
def execSvSrli (o : ShOps) (s : State) : Out :=
  legally (decide (o.shamt.toNat < o.vitp.itype.width s.cfg.xbits)) (.svSrli o) s
    (svShift (fun _ => Alu.srli) o s)

/-- `sv.srai`, rule R242. -/
def execSvSrai (o : ShOps) (s : State) : Out :=
  legally (decide (o.shamt.toNat < o.vitp.itype.width s.cfg.xbits)) (.svSrai o) s
    (svShift (fun _ => Alu.srai) o s)

/-- `sv.addiw`, rule R243. -/
def execSvAddiw (o : IOps) (s : State) : Out := svIntI (fun _ => Alu.add) o s

/-- `sv.slliw`, rule R244. -/
def execSvSlliw (o : ShOps) (s : State) : Out :=
  legally (decide (o.shamt.toNat < o.vitp.itype.width s.cfg.xbits)) (.svSlliw o) s
    (svShift (fun _ => Alu.slli) o s)

/-- `sv.srliw`, rule R245. -/
def execSvSrliw (o : ShOps) (s : State) : Out :=
  legally (decide (o.shamt.toNat < o.vitp.itype.width s.cfg.xbits)) (.svSrliw o) s
    (svShift (fun _ => Alu.srli) o s)

/-- `sv.sraiw`, rule R246. -/
def execSvSraiw (o : ShOps) (s : State) : Out :=
  legally (decide (o.shamt.toNat < o.vitp.itype.width s.cfg.xbits)) (.svSraiw o) s
    (svShift (fun _ => Alu.srai) o s)

/-- `sv.lui`, rule R248. -/
def execSvLui (o : UOps) (s : State) : Out := svUpper (fun xlen => immUpper xlen o.imm) o s

/-- `sv.auipc`, rule R249. -/
def execSvAuipc (o : UOps) (s : State) : Out := svUpper (fun xlen => s.pcAt xlen + immUpper xlen o.imm) o s

end Sys2Proof.Machine
end

