-- ==== Sys2Proof/Machine/SvIntR.lean ====
section
/-! DEFINITION. The meanings of the P48R integer instructions (rules R190 to R224).
One definition for each arm of `exec`. -/

namespace Sys2Proof.Machine

/-- `sv.add`, rule R196. -/
def execSvAdd (o : ROps) (s : State) : Out := svIntR (fun _ => Alu.add) o s

/-- `sv.sub`, rule R197. -/
def execSvSub (o : ROps) (s : State) : Out := svIntR (fun _ => Alu.sub) o s

/-- `sv.sll`, rule R198. -/
def execSvSll (o : ROps) (s : State) : Out := svIntR (fun _ => Alu.sll) o s

/-- `sv.slt`, rule R199. -/
def execSvSlt (o : ROps) (s : State) : Out := svIntR (fun _ => Alu.slt) o s

/-- `sv.sltu`, rule R200. -/
def execSvSltu (o : ROps) (s : State) : Out := svIntR (fun _ => Alu.sltu) o s

/-- `sv.xor`, rule R201. -/
def execSvXor (o : ROps) (s : State) : Out := svIntR (fun _ => Alu.xor) o s

/-- `sv.srl`, rule R202. -/
def execSvSrl (o : ROps) (s : State) : Out := svIntR (fun _ => Alu.srl) o s

/-- `sv.sra`, rule R203. -/
def execSvSra (o : ROps) (s : State) : Out := svIntR (fun _ => Alu.sra) o s

/-- `sv.or`, rule R204. -/
def execSvOr (o : ROps) (s : State) : Out := svIntR (fun _ => Alu.or) o s

/-- `sv.and`, rule R205. -/
def execSvAnd (o : ROps) (s : State) : Out := svIntR (fun _ => Alu.and) o s

/-- `sv.mul`, rule R206. -/
def execSvMul (o : ROps) (s : State) : Out := legally (s.cfg.hasM) (.svMul o) s
    (svIntR (fun _ => Alu.mul) o s)

/-- `sv.mulh`, rule R207. -/
def execSvMulh (o : ROps) (s : State) : Out := legally (s.cfg.hasM) (.svMulh o) s
    (svIntR (fun _ => Alu.mulh) o s)

/-- `sv.mulhsu`, rule R208. -/
def execSvMulhsu (o : ROps) (s : State) : Out :=
  legally (s.cfg.hasM) (.svMulhsu o) s
    (svIntR (fun _ => Alu.mulhsu) o s)

/-- `sv.mulhu`, rule R209. -/
def execSvMulhu (o : ROps) (s : State) : Out :=
  legally (s.cfg.hasM) (.svMulhu o) s
    (svIntR (fun _ => Alu.mulhu) o s)

/-- `sv.div`, rule R210. -/
def execSvDiv (o : ROps) (s : State) : Out := legally (s.cfg.hasM) (.svDiv o) s
    (svIntR (fun _ => Alu.div) o s)

/-- `sv.divu`, rule R211. -/
def execSvDivu (o : ROps) (s : State) : Out := legally (s.cfg.hasM) (.svDivu o) s
    (svIntR (fun _ => Alu.divu) o s)

/-- `sv.rem`, rule R212. -/
def execSvRem (o : ROps) (s : State) : Out := legally (s.cfg.hasM) (.svRem o) s
    (svIntR (fun _ => Alu.rem) o s)

/-- `sv.remu`, rule R213. -/
def execSvRemu (o : ROps) (s : State) : Out := legally (s.cfg.hasM) (.svRemu o) s
    (svIntR (fun _ => Alu.remu) o s)

/-- `sv.addw`, rule R214. -/
def execSvAddw (o : ROps) (s : State) : Out := svIntR (fun _ => Alu.add) o s

/-- `sv.subw`, rule R215. -/
def execSvSubw (o : ROps) (s : State) : Out := svIntR (fun _ => Alu.sub) o s

/-- `sv.sllw`, rule R216. -/
def execSvSllw (o : ROps) (s : State) : Out := svIntR (fun _ => Alu.sll) o s

/-- `sv.srlw`, rule R217. -/
def execSvSrlw (o : ROps) (s : State) : Out := svIntR (fun _ => Alu.srl) o s

/-- `sv.sraw`, rule R218. -/
def execSvSraw (o : ROps) (s : State) : Out := svIntR (fun _ => Alu.sra) o s

/-- `sv.mulw`, rule R219. -/
def execSvMulw (o : ROps) (s : State) : Out := legally (s.cfg.hasM) (.svMulw o) s
    (svIntR (fun _ => Alu.mul) o s)

/-- `sv.divw`, rule R220. -/
def execSvDivw (o : ROps) (s : State) : Out := legally (s.cfg.hasM) (.svDivw o) s
    (svIntR (fun _ => Alu.div) o s)

/-- `sv.divuw`, rule R221. -/
def execSvDivuw (o : ROps) (s : State) : Out :=
  legally (s.cfg.hasM) (.svDivuw o) s
    (svIntR (fun _ => Alu.divu) o s)

/-- `sv.remw`, rule R222. -/
def execSvRemw (o : ROps) (s : State) : Out := legally (s.cfg.hasM) (.svRemw o) s
    (svIntR (fun _ => Alu.rem) o s)

/-- `sv.remuw`, rule R223. -/
def execSvRemuw (o : ROps) (s : State) : Out :=
  legally (s.cfg.hasM) (.svRemuw o) s
    (svIntR (fun _ => Alu.remu) o s)

end Sys2Proof.Machine
end

