-- ==== Sys2Proof/Machine/SvLoadStore.lean ====
section
/-! DEFINITION. The meanings of the prefixed loads and stores (rules R160 to R186).
One definition for each arm of `exec`. -/

namespace Sys2Proof.Machine

/-- `sv.lb`, rule R167. -/
def execSvLb (o : MemOps) (s : State) : Out := svLoad .x 8 o s

/-- `sv.lh`, rule R168. -/
def execSvLh (o : MemOps) (s : State) : Out := svLoad .x 16 o s

/-- `sv.lw`, rule R169. -/
def execSvLw (o : MemOps) (s : State) : Out := svLoad .x 32 o s

/-- `sv.ld`, rule R170. -/
def execSvLd (o : MemOps) (s : State) : Out := legally (s.cfg.xlen == .rv64) (.svLd o) s
    (svLoad .x 64 o s)

/-- `sv.lbu`, rule R171. -/
def execSvLbu (o : MemOps) (s : State) : Out := svLoad .x 8 o s

/-- `sv.lhu`, rule R172. -/
def execSvLhu (o : MemOps) (s : State) : Out := svLoad .x 16 o s

/-- `sv.lwu`, rule R173. -/
def execSvLwu (o : MemOps) (s : State) : Out := legally (s.cfg.xlen == .rv64) (.svLwu o) s
    (svLoad .x 32 o s)

/-- `sv.flh`, rule R174. -/
def execSvFlh (o : MemOps) (s : State) : Out :=
  legally (decide (16 ≤ s.cfg.fbits)) (.svFlh o) s
    (svLoad .fp 16 o s)

/-- `sv.flw`, rule R175. -/
def execSvFlw (o : MemOps) (s : State) : Out :=
  legally (decide (32 ≤ s.cfg.fbits)) (.svFlw o) s
    (svLoad .fp 32 o s)

/-- `sv.fld`, rule R176. -/
def execSvFld (o : MemOps) (s : State) : Out :=
  legally (decide (64 ≤ s.cfg.fbits)) (.svFld o) s
    (svLoad .fp 64 o s)

/-- `sv.flq`, rule R177. -/
def execSvFlq (o : MemOps) (s : State) : Out :=
  legally (decide (128 ≤ s.cfg.fbits)) (.svFlq o) s
    (svLoad .fp 128 o s)

/-- `sv.sb`, rule R178. -/
def execSvSb (o : MemOps) (s : State) : Out := svStore .x 8 o s

/-- `sv.sh`, rule R179. -/
def execSvSh (o : MemOps) (s : State) : Out := svStore .x 16 o s

/-- `sv.sw`, rule R180. -/
def execSvSw (o : MemOps) (s : State) : Out := svStore .x 32 o s

/-- `sv.sd`, rule R181. -/
def execSvSd (o : MemOps) (s : State) : Out := legally (s.cfg.xlen == .rv64) (.svSd o) s
    (svStore .x 64 o s)

/-- `sv.fsh`, rule R182. -/
def execSvFsh (o : MemOps) (s : State) : Out :=
  legally (decide (16 ≤ s.cfg.fbits)) (.svFsh o) s
    (svStore .fp 16 o s)

/-- `sv.fsw`, rule R183. -/
def execSvFsw (o : MemOps) (s : State) : Out :=
  legally (decide (32 ≤ s.cfg.fbits)) (.svFsw o) s
    (svStore .fp 32 o s)

/-- `sv.fsd`, rule R184. -/
def execSvFsd (o : MemOps) (s : State) : Out :=
  legally (decide (64 ≤ s.cfg.fbits)) (.svFsd o) s
    (svStore .fp 64 o s)

/-- `sv.fsq`, rule R185. -/
def execSvFsq (o : MemOps) (s : State) : Out :=
  legally (decide (128 ≤ s.cfg.fbits)) (.svFsq o) s
    (svStore .fp 128 o s)

end Sys2Proof.Machine
end

