-- ==== Sys2Proof/Machine/System.lean ====
section
/-! DEFINITION. The meanings of the fences, the environment calls, the CSR instructions and the trap return (rules
R361 to R374, R390).
One definition for each arm of `exec`. -/

namespace Sys2Proof.Machine

/-- `fence`, rule R366: every field is ignored. -/
def execFence (_rd _rs1 : BitVec 5) (_imm : BitVec 12) (s : State) : Out := .next (s.advance 4)

/-- `fence.i`, rule R367: every field is ignored. -/
def execFenceI (_rd _rs1 : BitVec 5) (_imm : BitVec 12) (s : State) : Out := .next (s.advance 4)

/-- What `ecall` records: by the parameter, the 0 of rule R383's table or the pc of rule R361 (log entry 10). -/
def ecallInfo (s : State) : Nat :=
  match s.cfg.ecallInfo with
  | .zero => 0
  | .pc => s.pc.toNat

/-- `ecall`, rules R361 and R383. -/
def execEcall (s : State) : Out := raise .environmentCall (ecallInfo s) s

/-- `ebreak`, rule R362. -/
def execEbreak (s : State) : Out := raise .breakpoint s.pc.toNat s

/-- `csrrw`, rule R369. -/
def execCsrrw (rd rs1 : BitVec 5) (csr : BitVec 12) (s : State) : Out :=
  csrAccess rd csr (some (fun w _ => s.getX w rs1.toNat)) s

/-- `csrrs`, rule R370. -/
def execCsrrs (rd rs1 : BitVec 5) (csr : BitVec 12) (s : State) : Out :=
  csrAccess rd csr (if rs1 = 0#5 then none else some (fun w t => t ||| s.getX w rs1.toNat)) s

/-- `csrrc`, rule R371. -/
def execCsrrc (rd rs1 : BitVec 5) (csr : BitVec 12) (s : State) : Out :=
  csrAccess rd csr (if rs1 = 0#5 then none else some (fun w t => t &&& ~~~(s.getX w rs1.toNat))) s

/-- `csrrwi`, rule R372. -/
def execCsrrwi (rd uimm : BitVec 5) (csr : BitVec 12) (s : State) : Out :=
  csrAccess rd csr (some (fun w _ => BitVec.ofNat w uimm.toNat)) s

/-- `csrrsi`, rule R373. -/
def execCsrrsi (rd uimm : BitVec 5) (csr : BitVec 12) (s : State) : Out :=
  csrAccess rd csr (if uimm = 0#5 then none else some (fun w t => t ||| BitVec.ofNat w uimm.toNat)) s

/-- `csrrci`, rule R374. -/
def execCsrrci (rd uimm : BitVec 5) (csr : BitVec 12) (s : State) : Out :=
  csrAccess rd csr (if uimm = 0#5 then none else some (fun w t => t &&& ~~~(BitVec.ofNat w uimm.toNat))) s

/-- `mret`, rules R363 and R390: a trap return under `TRAP_MODEL = mmode` only. -/
def execMret (s : State) : Out := legally (s.cfg.trapModel == .mmode) .mret s (.next s.trapReturn)

end Sys2Proof.Machine
end

