-- ==== Sys2Proof/Machine/Dispatch.lean ====
section
/-! DEFINITION. One arm for each constructor of `Instr`, each a direct call of its meaning. -/

namespace Sys2Proof.Machine

def exec (i : Instr) (s : State) : Host.Outcome State Fault Refusal :=
  match i with
  | .svLb o => Sys2Proof.Machine.execSvLb o s
  | .svLh o => Sys2Proof.Machine.execSvLh o s
  | .svLw o => Sys2Proof.Machine.execSvLw o s
  | .svLd o => Sys2Proof.Machine.execSvLd o s
  | .svLbu o => Sys2Proof.Machine.execSvLbu o s
  | .svLhu o => Sys2Proof.Machine.execSvLhu o s
  | .svLwu o => Sys2Proof.Machine.execSvLwu o s
  | .svFlh o => Sys2Proof.Machine.execSvFlh o s
  | .svFlw o => Sys2Proof.Machine.execSvFlw o s
  | .svFld o => Sys2Proof.Machine.execSvFld o s
  | .svFlq o => Sys2Proof.Machine.execSvFlq o s
  | .svSb o => Sys2Proof.Machine.execSvSb o s
  | .svSh o => Sys2Proof.Machine.execSvSh o s
  | .svSw o => Sys2Proof.Machine.execSvSw o s
  | .svSd o => Sys2Proof.Machine.execSvSd o s
  | .svFsh o => Sys2Proof.Machine.execSvFsh o s
  | .svFsw o => Sys2Proof.Machine.execSvFsw o s
  | .svFsd o => Sys2Proof.Machine.execSvFsd o s
  | .svFsq o => Sys2Proof.Machine.execSvFsq o s
  | .svAdd o => Sys2Proof.Machine.execSvAdd o s
  | .svSub o => Sys2Proof.Machine.execSvSub o s
  | .svSll o => Sys2Proof.Machine.execSvSll o s
  | .svSlt o => Sys2Proof.Machine.execSvSlt o s
  | .svSltu o => Sys2Proof.Machine.execSvSltu o s
  | .svXor o => Sys2Proof.Machine.execSvXor o s
  | .svSrl o => Sys2Proof.Machine.execSvSrl o s
  | .svSra o => Sys2Proof.Machine.execSvSra o s
  | .svOr o => Sys2Proof.Machine.execSvOr o s
  | .svAnd o => Sys2Proof.Machine.execSvAnd o s
  | .svMul o => Sys2Proof.Machine.execSvMul o s
  | .svMulh o => Sys2Proof.Machine.execSvMulh o s
  | .svMulhsu o => Sys2Proof.Machine.execSvMulhsu o s
  | .svMulhu o => Sys2Proof.Machine.execSvMulhu o s
  | .svDiv o => Sys2Proof.Machine.execSvDiv o s
  | .svDivu o => Sys2Proof.Machine.execSvDivu o s
  | .svRem o => Sys2Proof.Machine.execSvRem o s
  | .svRemu o => Sys2Proof.Machine.execSvRemu o s
  | .svAddw o => Sys2Proof.Machine.execSvAddw o s
  | .svSubw o => Sys2Proof.Machine.execSvSubw o s
  | .svSllw o => Sys2Proof.Machine.execSvSllw o s
  | .svSrlw o => Sys2Proof.Machine.execSvSrlw o s
  | .svSraw o => Sys2Proof.Machine.execSvSraw o s
  | .svMulw o => Sys2Proof.Machine.execSvMulw o s
  | .svDivw o => Sys2Proof.Machine.execSvDivw o s
  | .svDivuw o => Sys2Proof.Machine.execSvDivuw o s
  | .svRemw o => Sys2Proof.Machine.execSvRemw o s
  | .svRemuw o => Sys2Proof.Machine.execSvRemuw o s
  | .svAddi o => Sys2Proof.Machine.execSvAddi o s
  | .svSlti o => Sys2Proof.Machine.execSvSlti o s
  | .svSltiu o => Sys2Proof.Machine.execSvSltiu o s
  | .svXori o => Sys2Proof.Machine.execSvXori o s
  | .svOri o => Sys2Proof.Machine.execSvOri o s
  | .svAndi o => Sys2Proof.Machine.execSvAndi o s
  | .svSlli o => Sys2Proof.Machine.execSvSlli o s
  | .svSrli o => Sys2Proof.Machine.execSvSrli o s
  | .svSrai o => Sys2Proof.Machine.execSvSrai o s
  | .svAddiw o => Sys2Proof.Machine.execSvAddiw o s
  | .svSlliw o => Sys2Proof.Machine.execSvSlliw o s
  | .svSrliw o => Sys2Proof.Machine.execSvSrliw o s
  | .svSraiw o => Sys2Proof.Machine.execSvSraiw o s
  | .svLui o => Sys2Proof.Machine.execSvLui o s
  | .svAuipc o => Sys2Proof.Machine.execSvAuipc o s
  | .svFaddFmt rm o => Sys2Proof.Machine.execSvFaddFmt rm o s
  | .svFsubFmt rm o => Sys2Proof.Machine.execSvFsubFmt rm o s
  | .svFmulFmt rm o => Sys2Proof.Machine.execSvFmulFmt rm o s
  | .svFdivFmt rm o => Sys2Proof.Machine.execSvFdivFmt rm o s
  | .svFsgnjFmt o => Sys2Proof.Machine.execSvFsgnjFmt o s
  | .svFsgnjnFmt o => Sys2Proof.Machine.execSvFsgnjnFmt o s
  | .svFsgnjxFmt o => Sys2Proof.Machine.execSvFsgnjxFmt o s
  | .svFminFmt o => Sys2Proof.Machine.execSvFminFmt o s
  | .svFmaxFmt o => Sys2Proof.Machine.execSvFmaxFmt o s
  | .svFeqFmt o => Sys2Proof.Machine.execSvFeqFmt o s
  | .svFltFmt o => Sys2Proof.Machine.execSvFltFmt o s
  | .svFleFmt o => Sys2Proof.Machine.execSvFleFmt o s
  | .svFsqrtFmt rm o => Sys2Proof.Machine.execSvFsqrtFmt rm o s
  | .svFcvtWFmt rm o => Sys2Proof.Machine.execSvFcvtWFmt rm o s
  | .svFcvtWuFmt rm o => Sys2Proof.Machine.execSvFcvtWuFmt rm o s
  | .svFcvtLFmt rm o => Sys2Proof.Machine.execSvFcvtLFmt rm o s
  | .svFcvtLuFmt rm o => Sys2Proof.Machine.execSvFcvtLuFmt rm o s
  | .svFcvtFmtW rm o => Sys2Proof.Machine.execSvFcvtFmtW rm o s
  | .svFcvtFmtWu rm o => Sys2Proof.Machine.execSvFcvtFmtWu rm o s
  | .svFcvtFmtL rm o => Sys2Proof.Machine.execSvFcvtFmtL rm o s
  | .svFcvtFmtLu rm o => Sys2Proof.Machine.execSvFcvtFmtLu rm o s
  | .svFmvXFmt o => Sys2Proof.Machine.execSvFmvXFmt o s
  | .svFmvFmtX o => Sys2Proof.Machine.execSvFmvFmtX o s
  | .svFclassFmt o => Sys2Proof.Machine.execSvFclassFmt o s
  | .svFcvtFmtFmt src rm o => Sys2Proof.Machine.execSvFcvtFmtFmt src rm o s
  | .svFmaddFmt rm o => Sys2Proof.Machine.execSvFmaddFmt rm o s
  | .svFmsubFmt rm o => Sys2Proof.Machine.execSvFmsubFmt rm o s
  | .svFnmsubFmt rm o => Sys2Proof.Machine.execSvFnmsubFmt rm o s
  | .svFnmaddFmt rm o => Sys2Proof.Machine.execSvFnmaddFmt rm o s
  | .setvl rd rs1 imm => Sys2Proof.Machine.execSetvl rd rs1 imm s
  | .lui rd imm => Sys2Proof.Machine.execLui rd imm s
  | .auipc rd imm => Sys2Proof.Machine.execAuipc rd imm s
  | .addi rd rs1 imm => Sys2Proof.Machine.execAddi rd rs1 imm s
  | .slti rd rs1 imm => Sys2Proof.Machine.execSlti rd rs1 imm s
  | .sltiu rd rs1 imm => Sys2Proof.Machine.execSltiu rd rs1 imm s
  | .xori rd rs1 imm => Sys2Proof.Machine.execXori rd rs1 imm s
  | .ori rd rs1 imm => Sys2Proof.Machine.execOri rd rs1 imm s
  | .andi rd rs1 imm => Sys2Proof.Machine.execAndi rd rs1 imm s
  | .slli rd rs1 shamt => Sys2Proof.Machine.execSlli rd rs1 shamt s
  | .srli rd rs1 shamt => Sys2Proof.Machine.execSrli rd rs1 shamt s
  | .srai rd rs1 shamt => Sys2Proof.Machine.execSrai rd rs1 shamt s
  | .add rd rs1 rs2 => Sys2Proof.Machine.execAdd rd rs1 rs2 s
  | .sub rd rs1 rs2 => Sys2Proof.Machine.execSub rd rs1 rs2 s
  | .sll rd rs1 rs2 => Sys2Proof.Machine.execSll rd rs1 rs2 s
  | .slt rd rs1 rs2 => Sys2Proof.Machine.execSlt rd rs1 rs2 s
  | .sltu rd rs1 rs2 => Sys2Proof.Machine.execSltu rd rs1 rs2 s
  | .xor rd rs1 rs2 => Sys2Proof.Machine.execXor rd rs1 rs2 s
  | .srl rd rs1 rs2 => Sys2Proof.Machine.execSrl rd rs1 rs2 s
  | .sra rd rs1 rs2 => Sys2Proof.Machine.execSra rd rs1 rs2 s
  | .or rd rs1 rs2 => Sys2Proof.Machine.execOr rd rs1 rs2 s
  | .and rd rs1 rs2 => Sys2Proof.Machine.execAnd rd rs1 rs2 s
  | .addiw rd rs1 imm => Sys2Proof.Machine.execAddiw rd rs1 imm s
  | .slliw rd rs1 shamt => Sys2Proof.Machine.execSlliw rd rs1 shamt s
  | .srliw rd rs1 shamt => Sys2Proof.Machine.execSrliw rd rs1 shamt s
  | .sraiw rd rs1 shamt => Sys2Proof.Machine.execSraiw rd rs1 shamt s
  | .addw rd rs1 rs2 => Sys2Proof.Machine.execAddw rd rs1 rs2 s
  | .subw rd rs1 rs2 => Sys2Proof.Machine.execSubw rd rs1 rs2 s
  | .sllw rd rs1 rs2 => Sys2Proof.Machine.execSllw rd rs1 rs2 s
  | .srlw rd rs1 rs2 => Sys2Proof.Machine.execSrlw rd rs1 rs2 s
  | .sraw rd rs1 rs2 => Sys2Proof.Machine.execSraw rd rs1 rs2 s
  | .mul rd rs1 rs2 => Sys2Proof.Machine.execMul rd rs1 rs2 s
  | .mulh rd rs1 rs2 => Sys2Proof.Machine.execMulh rd rs1 rs2 s
  | .mulhsu rd rs1 rs2 => Sys2Proof.Machine.execMulhsu rd rs1 rs2 s
  | .mulhu rd rs1 rs2 => Sys2Proof.Machine.execMulhu rd rs1 rs2 s
  | .div rd rs1 rs2 => Sys2Proof.Machine.execDiv rd rs1 rs2 s
  | .divu rd rs1 rs2 => Sys2Proof.Machine.execDivu rd rs1 rs2 s
  | .rem rd rs1 rs2 => Sys2Proof.Machine.execRem rd rs1 rs2 s
  | .remu rd rs1 rs2 => Sys2Proof.Machine.execRemu rd rs1 rs2 s
  | .mulw rd rs1 rs2 => Sys2Proof.Machine.execMulw rd rs1 rs2 s
  | .divw rd rs1 rs2 => Sys2Proof.Machine.execDivw rd rs1 rs2 s
  | .divuw rd rs1 rs2 => Sys2Proof.Machine.execDivuw rd rs1 rs2 s
  | .remw rd rs1 rs2 => Sys2Proof.Machine.execRemw rd rs1 rs2 s
  | .remuw rd rs1 rs2 => Sys2Proof.Machine.execRemuw rd rs1 rs2 s
  | .lb rd rs1 imm => Sys2Proof.Machine.execLb rd rs1 imm s
  | .lh rd rs1 imm => Sys2Proof.Machine.execLh rd rs1 imm s
  | .lw rd rs1 imm => Sys2Proof.Machine.execLw rd rs1 imm s
  | .ld rd rs1 imm => Sys2Proof.Machine.execLd rd rs1 imm s
  | .lbu rd rs1 imm => Sys2Proof.Machine.execLbu rd rs1 imm s
  | .lhu rd rs1 imm => Sys2Proof.Machine.execLhu rd rs1 imm s
  | .lwu rd rs1 imm => Sys2Proof.Machine.execLwu rd rs1 imm s
  | .sb rs2 rs1 imm => Sys2Proof.Machine.execSb rs2 rs1 imm s
  | .sh rs2 rs1 imm => Sys2Proof.Machine.execSh rs2 rs1 imm s
  | .sw rs2 rs1 imm => Sys2Proof.Machine.execSw rs2 rs1 imm s
  | .sd rs2 rs1 imm => Sys2Proof.Machine.execSd rs2 rs1 imm s
  | .faddFmt fmt rm rd rs1 rs2 => Sys2Proof.Machine.execFaddFmt fmt rm rd rs1 rs2 s
  | .fsubFmt fmt rm rd rs1 rs2 => Sys2Proof.Machine.execFsubFmt fmt rm rd rs1 rs2 s
  | .fmulFmt fmt rm rd rs1 rs2 => Sys2Proof.Machine.execFmulFmt fmt rm rd rs1 rs2 s
  | .fdivFmt fmt rm rd rs1 rs2 => Sys2Proof.Machine.execFdivFmt fmt rm rd rs1 rs2 s
  | .fsqrtFmt fmt rm rd rs1 => Sys2Proof.Machine.execFsqrtFmt fmt rm rd rs1 s
  | .fsgnjFmt fmt rd rs1 rs2 => Sys2Proof.Machine.execFsgnjFmt fmt rd rs1 rs2 s
  | .fsgnjnFmt fmt rd rs1 rs2 => Sys2Proof.Machine.execFsgnjnFmt fmt rd rs1 rs2 s
  | .fsgnjxFmt fmt rd rs1 rs2 => Sys2Proof.Machine.execFsgnjxFmt fmt rd rs1 rs2 s
  | .fminFmt fmt rd rs1 rs2 => Sys2Proof.Machine.execFminFmt fmt rd rs1 rs2 s
  | .fmaxFmt fmt rd rs1 rs2 => Sys2Proof.Machine.execFmaxFmt fmt rd rs1 rs2 s
  | .feqFmt fmt rd rs1 rs2 => Sys2Proof.Machine.execFeqFmt fmt rd rs1 rs2 s
  | .fltFmt fmt rd rs1 rs2 => Sys2Proof.Machine.execFltFmt fmt rd rs1 rs2 s
  | .fleFmt fmt rd rs1 rs2 => Sys2Proof.Machine.execFleFmt fmt rd rs1 rs2 s
  | .fcvtWFmt fmt rm rd rs1 => Sys2Proof.Machine.execFcvtWFmt fmt rm rd rs1 s
  | .fcvtWuFmt fmt rm rd rs1 => Sys2Proof.Machine.execFcvtWuFmt fmt rm rd rs1 s
  | .fcvtLFmt fmt rm rd rs1 => Sys2Proof.Machine.execFcvtLFmt fmt rm rd rs1 s
  | .fcvtLuFmt fmt rm rd rs1 => Sys2Proof.Machine.execFcvtLuFmt fmt rm rd rs1 s
  | .fcvtFmtW fmt rm rd rs1 => Sys2Proof.Machine.execFcvtFmtW fmt rm rd rs1 s
  | .fcvtFmtWu fmt rm rd rs1 => Sys2Proof.Machine.execFcvtFmtWu fmt rm rd rs1 s
  | .fcvtFmtL fmt rm rd rs1 => Sys2Proof.Machine.execFcvtFmtL fmt rm rd rs1 s
  | .fcvtFmtLu fmt rm rd rs1 => Sys2Proof.Machine.execFcvtFmtLu fmt rm rd rs1 s
  | .fcvtFmtFmt fmt src rm rd rs1 => Sys2Proof.Machine.execFcvtFmtFmt fmt src rm rd rs1 s
  | .fmvXFmt fmt rd rs1 => Sys2Proof.Machine.execFmvXFmt fmt rd rs1 s
  | .fmvFmtX fmt rd rs1 => Sys2Proof.Machine.execFmvFmtX fmt rd rs1 s
  | .fclassFmt fmt rd rs1 => Sys2Proof.Machine.execFclassFmt fmt rd rs1 s
  | .fmaddFmt fmt rm rd rs1 rs2 rs3 => Sys2Proof.Machine.execFmaddFmt fmt rm rd rs1 rs2 rs3 s
  | .fmsubFmt fmt rm rd rs1 rs2 rs3 => Sys2Proof.Machine.execFmsubFmt fmt rm rd rs1 rs2 rs3 s
  | .fnmsubFmt fmt rm rd rs1 rs2 rs3 => Sys2Proof.Machine.execFnmsubFmt fmt rm rd rs1 rs2 rs3 s
  | .fnmaddFmt fmt rm rd rs1 rs2 rs3 => Sys2Proof.Machine.execFnmaddFmt fmt rm rd rs1 rs2 rs3 s
  | .flw rd rs1 imm => Sys2Proof.Machine.execFlw rd rs1 imm s
  | .fld rd rs1 imm => Sys2Proof.Machine.execFld rd rs1 imm s
  | .flq rd rs1 imm => Sys2Proof.Machine.execFlq rd rs1 imm s
  | .fsw rs2 rs1 imm => Sys2Proof.Machine.execFsw rs2 rs1 imm s
  | .fsd rs2 rs1 imm => Sys2Proof.Machine.execFsd rs2 rs1 imm s
  | .fsq rs2 rs1 imm => Sys2Proof.Machine.execFsq rs2 rs1 imm s
  | .jal rd imm => Sys2Proof.Machine.execJal rd imm s
  | .jalr rd rs1 imm => Sys2Proof.Machine.execJalr rd rs1 imm s
  | .beq rs1 rs2 imm => Sys2Proof.Machine.execBeq rs1 rs2 imm s
  | .bne rs1 rs2 imm => Sys2Proof.Machine.execBne rs1 rs2 imm s
  | .blt rs1 rs2 imm => Sys2Proof.Machine.execBlt rs1 rs2 imm s
  | .bge rs1 rs2 imm => Sys2Proof.Machine.execBge rs1 rs2 imm s
  | .bltu rs1 rs2 imm => Sys2Proof.Machine.execBltu rs1 rs2 imm s
  | .bgeu rs1 rs2 imm => Sys2Proof.Machine.execBgeu rs1 rs2 imm s
  | .fence rd rs1 imm => Sys2Proof.Machine.execFence rd rs1 imm s
  | .fenceI rd rs1 imm => Sys2Proof.Machine.execFenceI rd rs1 imm s
  | .ecall => Sys2Proof.Machine.execEcall s
  | .ebreak => Sys2Proof.Machine.execEbreak s
  | .csrrw rd rs1 csr => Sys2Proof.Machine.execCsrrw rd rs1 csr s
  | .csrrs rd rs1 csr => Sys2Proof.Machine.execCsrrs rd rs1 csr s
  | .csrrc rd rs1 csr => Sys2Proof.Machine.execCsrrc rd rs1 csr s
  | .csrrwi rd uimm csr => Sys2Proof.Machine.execCsrrwi rd uimm csr s
  | .csrrsi rd uimm csr => Sys2Proof.Machine.execCsrrsi rd uimm csr s
  | .csrrci rd uimm csr => Sys2Proof.Machine.execCsrrci rd uimm csr s
  | .flh rd rs1 imm => Sys2Proof.Machine.execFlh rd rs1 imm s
  | .fsh rs2 rs1 imm => Sys2Proof.Machine.execFsh rs2 rs1 imm s
  | .mret => Sys2Proof.Machine.execMret s

end Sys2Proof.Machine
end

