-- ==== Sys2Proof/Machine/Fetch.lean ====
section
/-! DEFINITION. Instruction fetch (rules R36, R50, R54, R66). -/

namespace Sys2Proof.Machine

/-- What a fetch gives: an instruction word of `len` bytes, or an exception. -/
inductive Fetched where
  | word (len w : Nat)
  | exception (e : Exc) (info : Nat)
  | wraps
  deriving DecidableEq, Repr

/-- The 16-bit parcel at pc + `off` (rule R66). -/
def parcelAt (s : State) (off : Nat) : Nat := ByteMap.readLe s.mem (s.wrapAddr (s.pc.toNat + off)) 2

/-- Whether the parcels at pc + 2, .. up to `len` bytes may be fetched (rules R58, R66). -/
def fetchable (s : State) (len : Nat) : Bool := s.admits s.pc.toNat len .fetch

/-- Fetch at pc (rule R66): the address, the first parcel, the length it announces, then the other parcels. An
instruction that wraps the address space has no meaning (rule R36). Access faults report the pc (rule R383). -/
def fetch (s : State) : Fetched :=
  if s.pc.toNat % 2 = 1 then .exception .instructionAddressMisaligned s.pc.toNat
  else if !fetchable s 2 then .exception .instructionAccessFault s.pc.toNat
  else
    match instrLen (parcelAt s 0) with
    | none => .exception .illegalInstruction (parcelAt s 0)
    | some len =>
      if s.span < s.pc.toNat + len then .wraps
      else if !fetchable s len then .exception .instructionAccessFault s.pc.toNat
      else .word len (ByteMap.readLe s.mem (s.wrapAddr s.pc.toNat) len)

/-- The outcome for a fetched word that is no instruction (rules R99, R100, R596): IllegalInstruction with the word
(rule R386). A 16-bit parcel where `HAS_C` holds is an instruction whose expansion the spec does not transcribe (rules
R321, R596, U36): refused. -/
def notAnInstruction (e : DecodeError) (w : Nat) (s : State) : Out :=
  if e = .compressed ∧ s.cfg.hasC = true then .refused (.compressedForm w) else raise .illegalInstruction w s

/-- The machine with the `n` bytes of a word stored at its pc, lowest-addressed byte first (rule R50). -/
def State.storeWord (s : State) (n w : Nat) : State := s.memPut s.pc.toNat (8 * n) (BitVec.ofNat (8 * n) w)

end Sys2Proof.Machine
end

