-- ==== Sys2Proof/Machine/Step.lean ====
section
/-! DEFINITION. One step of the machine, and how a test places one instruction. -/

namespace Sys2Proof.Machine

/-- One step: fetch at pc (rule R66), decode, run the meaning. -/
def step (s : State) : Host.Outcome State Fault Refusal :=
  match fetch s with
  | .exception e info => raise e info s
  | .wraps => .fault (.fetchWrap s.pc)
  | .word len w =>
    match decodeWord s.cfg.setvlEnc len w with
    | .ok i => exec i s
    | .error e => notAnInstruction e w s

/-- The machine with the instruction whose bits are `w` (those above `nbits` zero, up to 48) stored where `step`
fetches next: the six bytes at pc. It stands for loading a program from outside (log entry 11). -/
def State.withFetchWord (s : State) (nbits w : Nat) : State := s.storeWord 6 (w % 2 ^ nbits)

end Sys2Proof.Machine
end

