-- ==== Sys2Proof/WellFormed.lean ====
section
/-! DEFINITION. Which terms of `Instr` stand for an encoding. Register fields and immediates cannot be out of range
(their types hold exactly what the encoding holds); what remains to check is the predicate register of an integer
format (rule R93), the two formats of an FP-to-FP conversion (rules R289, R582) and that the operands of `setvl` are
those of its word (rules R312, R315). Conditions that depend on the parameters (XLEN, FLEN, HAS_M, a shift amount
against the element width) are the meanings' own (`legally`, Machine/Ops.lean). -/

namespace Sys2Proof

/-- vitp6 has pred[2] = 0, so an integer-format instruction can be predicated only by x9 (rule R93). -/
def Pred.fitsVitp : Pred → Bool
  | .always => true
  | .on .x9 _ => true
  | .on .x10 _ => false
  | .on .x11 _ => false

/-- The structural conditions on an instruction, for a given encoding of `setvl`. -/
def Instr.wellFormed (enc : SetvlEncoding) : Instr → Bool
  | .svAdd o | .svSub o | .svSll o | .svSlt o | .svSltu o | .svXor o | .svSrl o | .svSra o | .svOr o | .svAnd o
  | .svMul o | .svMulh o | .svMulhsu o | .svMulhu o | .svDiv o | .svDivu o | .svRem o | .svRemu o | .svAddw o
  | .svSubw o | .svSllw o | .svSrlw o | .svSraw o | .svMulw o | .svDivw o | .svDivuw o | .svRemw o | .svRemuw o
  | .svAddi o | .svSlti o | .svSltiu o | .svXori o | .svOri o | .svAndi o | .svSlli o | .svSrli o | .svSrai o
  | .svAddiw o | .svSlliw o | .svSrliw o | .svSraiw o | .svLui o | .svAuipc o => o.vitp.pred.fitsVitp
  | .svFcvtFmtFmt src _ o => src != o.fmt
  | .fcvtFmtFmt fmt src _ _ _ => src != fmt
  | .setvl rd rs1 imm =>
    enc.selects imm.insn && enc.operands imm.insn == (rd, rs1, imm.value) && decide (imm.insn < 2 ^ (8 * enc.len))
  | .svLb _ | .svLh _ | .svLw _ | .svLd _ | .svLbu _ | .svLhu _ | .svLwu _ | .svFlh _ | .svFlw _ | .svFld _
  | .svFlq _ | .svSb _ | .svSh _ | .svSw _ | .svSd _ | .svFsh _ | .svFsw _ | .svFsd _ | .svFsq _
  | .svFaddFmt _ _ | .svFsubFmt _ _ | .svFmulFmt _ _ | .svFdivFmt _ _ | .svFsgnjFmt _ | .svFsgnjnFmt _
  | .svFsgnjxFmt _ | .svFminFmt _ | .svFmaxFmt _ | .svFeqFmt _ | .svFltFmt _ | .svFleFmt _ | .svFsqrtFmt _ _
  | .svFcvtWFmt _ _ | .svFcvtWuFmt _ _ | .svFcvtLFmt _ _ | .svFcvtLuFmt _ _ | .svFcvtFmtW _ _ | .svFcvtFmtWu _ _
  | .svFcvtFmtL _ _ | .svFcvtFmtLu _ _ | .svFmvXFmt _ | .svFmvFmtX _ | .svFclassFmt _ | .svFmaddFmt _ _
  | .svFmsubFmt _ _ | .svFnmsubFmt _ _ | .svFnmaddFmt _ _ | .lui _ _ | .auipc _ _ | .addi _ _ _ | .slti _ _ _
  | .sltiu _ _ _ | .xori _ _ _ | .ori _ _ _ | .andi _ _ _ | .slli _ _ _ | .srli _ _ _ | .srai _ _ _ | .add _ _ _
  | .sub _ _ _ | .sll _ _ _ | .slt _ _ _ | .sltu _ _ _ | .xor _ _ _ | .srl _ _ _ | .sra _ _ _ | .or _ _ _
  | .and _ _ _ | .addiw _ _ _ | .slliw _ _ _ | .srliw _ _ _ | .sraiw _ _ _ | .addw _ _ _ | .subw _ _ _
  | .sllw _ _ _ | .srlw _ _ _ | .sraw _ _ _ | .mul _ _ _ | .mulh _ _ _ | .mulhsu _ _ _ | .mulhu _ _ _
  | .div _ _ _ | .divu _ _ _ | .rem _ _ _ | .remu _ _ _ | .mulw _ _ _ | .divw _ _ _ | .divuw _ _ _ | .remw _ _ _
  | .remuw _ _ _ | .lb _ _ _ | .lh _ _ _ | .lw _ _ _ | .ld _ _ _ | .lbu _ _ _ | .lhu _ _ _ | .lwu _ _ _
  | .sb _ _ _ | .sh _ _ _ | .sw _ _ _ | .sd _ _ _ | .faddFmt _ _ _ _ _ | .fsubFmt _ _ _ _ _ | .fmulFmt _ _ _ _ _
  | .fdivFmt _ _ _ _ _ | .fsqrtFmt _ _ _ _ | .fsgnjFmt _ _ _ _ | .fsgnjnFmt _ _ _ _ | .fsgnjxFmt _ _ _ _
  | .fminFmt _ _ _ _ | .fmaxFmt _ _ _ _ | .feqFmt _ _ _ _ | .fltFmt _ _ _ _ | .fleFmt _ _ _ _
  | .fcvtWFmt _ _ _ _ | .fcvtWuFmt _ _ _ _ | .fcvtLFmt _ _ _ _ | .fcvtLuFmt _ _ _ _ | .fcvtFmtW _ _ _ _
  | .fcvtFmtWu _ _ _ _ | .fcvtFmtL _ _ _ _ | .fcvtFmtLu _ _ _ _ | .fmvXFmt _ _ _ | .fmvFmtX _ _ _
  | .fclassFmt _ _ _ | .fmaddFmt _ _ _ _ _ _ | .fmsubFmt _ _ _ _ _ _ | .fnmsubFmt _ _ _ _ _ _
  | .fnmaddFmt _ _ _ _ _ _ | .flw _ _ _ | .fld _ _ _ | .flq _ _ _ | .fsw _ _ _ | .fsd _ _ _ | .fsq _ _ _
  | .jal _ _ | .jalr _ _ _ | .beq _ _ _ | .bne _ _ _ | .blt _ _ _ | .bge _ _ _ | .bltu _ _ _ | .bgeu _ _ _
  | .fence _ _ _ | .fenceI _ _ _ | .ecall | .ebreak | .csrrw _ _ _ | .csrrs _ _ _ | .csrrc _ _ _ | .csrrwi _ _ _
  | .csrrsi _ _ _ | .csrrci _ _ _ | .flh _ _ _ | .fsh _ _ _ | .mret => true

end Sys2Proof
end

