-- ==== Sys2Proof/Safety.lean ====
section
/-! DEFINITION. The terms in which claims speak of the machine: what every state of a run satisfies, what an instruction
may leave unchanged, and the runs of a prefixed instruction as relations between states. -/

namespace Sys2Proof.Machine

/-- The parameters are ones the spec admits: SETVL_LEN is a whole number of parcels (rules R36, R315), and `setvl` and
RESET_PC do not make the pc odd (rule R54). -/
structure ConfigOk (c : Config) : Prop where
  setvlLen : c.setvlEnc.len % 2 = 0
  resetEven : c.resetPc.toNat % 2 = 0

/-- The invariant of every step. -/
structure State.Inv (s : State) : Prop where
  /-- The parameters are admissible. -/
  cfg : ConfigOk s.cfg
  /-- Memory is in its canonical form. -/
  mem : Memory.wf s.mem = true
  /-- Memory lists addresses below 2^XLEN only (rule R39). -/
  memRange : ∀ c ∈ s.mem, c.1 < s.span
  /-- The integer registers are in their canonical form. -/
  xregs : ByteMap.wf s.xregs = true
  /-- They list bytes of x1 to x127 only: x0 holds nothing (rules R20, R21). -/
  xrange : ∀ c ∈ s.xregs, s.rb .x ≤ c.1 ∧ c.1 < 128 * s.rb .x
  /-- The FP registers are in their canonical form. -/
  fregs : ByteMap.wf s.fregs = true
  /-- They list bytes of f0 to f127 only (rule R24). -/
  frange : ∀ c ∈ s.fregs, c.1 < 128 * s.rb .fp
  /-- The pc is even (rules R36, R54, R333). -/
  pcEven : s.pc.toNat % 2 = 0
  /-- The pc is an XLEN-bit value (rule R34). -/
  pcRange : s.pc.toNat < s.span
  /-- VL is legal (rule R30). -/
  vl : s.vl ≤ s.cfg.xbits
  /-- Vstart is legal (rule R31). -/
  vstart : s.vstart < s.cfg.xbits
  /-- `mepc` is an even XLEN-bit value (rule R390). -/
  mepc : s.mepc.toNat < s.span ∧ s.mepc.toNat % 2 = 0
  /-- The other trap registers are XLEN-bit values (rule R390). -/
  trapRange : s.mtvec.toNat < s.span ∧ s.mcause.toNat < s.span ∧ s.mtval.toNat < s.span ∧ s.mscratch.toNat < s.span

/-! ## Frames -/

/-- Only the program counter differs. -/
def OnlyPc (s t : State) : Prop := t = { s with pc := t.pc }

/-- Only the pc and the integer register `r` differ. -/
def OnlyX (s t : State) (r : Nat) : Prop :=
  t = { s with pc := t.pc, xregs := t.xregs } ∧ ∀ q, q ≠ r → t.getX s.cfg.xbits q = s.getX s.cfg.xbits q

/-- Only the pc, the FP register `r` and the accrued FP flags differ. -/
def OnlyF (s t : State) (r : Nat) : Prop :=
  t = { s with pc := t.pc, fregs := t.fregs, fflags := t.fflags } ∧
    ∀ q, q ≠ r → t.getF s.cfg.fbits q = s.getF s.cfg.fbits q

/-- Only the pc, the integer register `r` and the accrued FP flags differ. -/
def OnlyXFlags (s t : State) (r : Nat) : Prop :=
  t = { s with pc := t.pc, xregs := t.xregs, fflags := t.fflags } ∧
    ∀ q, q ≠ r → t.getX s.cfg.xbits q = s.getX s.cfg.xbits q

/-- Only the pc and the `n` bytes of memory from address `a` on (modulo 2^XLEN) differ. -/
def OnlyMem (s t : State) (a n : Nat) : Prop :=
  t = { s with pc := t.pc, mem := t.mem } ∧ ∀ b, (∀ m < n, (a + m) % 2 ^ s.cfg.xbits ≠ b) → t.byteAt b = s.byteAt b

/-- The pc has moved past an instruction of `n` bytes, modulo 2^XLEN (rules R35, R36, R333). -/
def PastPc (s t : State) (n : Nat) : Prop := t.pc.toNat = (s.pc.toNat + n) % 2 ^ s.cfg.xbits

/-- x[rd] holds `v` and the machine has moved past a 32-bit instruction; x0 still reads 0; nothing else differs (rules
R21, R330, R333). -/
def SetsX (s t : State) (rd : BitVec 5) (v : BitVec s.cfg.xbits) : Prop :=
  t.getX s.cfg.xbits rd.toNat = (if rd = 0#5 then 0 else v) ∧ PastPc s t 4 ∧ OnlyX s t rd.toNat

/-- As `SetsX`, with FP flags ORed in (rules R264, R360). -/
def SetsXFlags (s t : State) (rd : BitVec 5) (v : BitVec s.cfg.xbits) (fl : BitVec 5) : Prop :=
  t.getX s.cfg.xbits rd.toNat = (if rd = 0#5 then 0 else v) ∧ t.fflags = s.fflags ||| fl ∧ PastPc s t 4 ∧
    OnlyXFlags s t rd.toNat

/-- f[rd] holds `v`, FP flags are ORed in, and the machine has moved past a 32-bit instruction; nothing else differs
(rules R264, R330, R333, R360). -/
def SetsF (s t : State) (rd : BitVec 5) (v : BitVec s.cfg.fbits) (fl : BitVec 5) : Prop :=
  t.getF s.cfg.fbits rd.toNat = v ∧ t.fflags = s.fflags ||| fl ∧ PastPc s t 4 ∧ OnlyF s t rd.toNat

/-- The `w / 8` bytes of `v` stand at address `a`, least significant first, and the machine has moved past a 32-bit
instruction; nothing else differs (rules R51, R52, R330, R333). -/
def Stores (s t : State) (a w : Nat) (v : BitVec w) : Prop :=
  (∀ m < w / 8, t.byteAt ((a + m) % 2 ^ s.cfg.xbits) = v.extractLsb' (8 * m) 8) ∧ PastPc s t 4 ∧ OnlyMem s t a (w / 8)

/-- Trap entry by `e` with `info` (rules R381, R390): the saved registers, the interrupt bits and the handler's pc;
nothing else differs. -/
def Traps (s t : State) (e : Exc) (info : Nat) : Prop :=
  t = { s with
    mepc := BitVec.ofNat 64 (s.pc.toNat / 2 * 2), mcause := BitVec.ofNat 64 e.code,
    mtval := BitVec.ofNat 64 (info % 2 ^ s.cfg.xbits), mpie := s.mie, mie := false,
    pc := BitVec.ofNat 64 (s.mtvec.toNat / 4 * 4) }

/-- What `raise E(info)` is to do (rule R381): end the run with the state handed to the environment under
`TRAP_MODEL = stop`, enter the trap under `mmode`. -/
def Raises (o : Out) (s : State) (e : Exc) (info : Nat) : Prop :=
  (s.cfg.trapModel = .stop → o = .fault (.trapped e info s)) ∧
    (s.cfg.trapModel = .mmode → ∃ t, o = .next t ∧ Traps s t e info)

/-! ## Results: the instruction answers a next state, and what that state is -/

/-- x[r] as an XLEN-bit value. -/
abbrev State.xr (s : State) (r : BitVec 5) : BitVec s.cfg.xbits := s.getX s.cfg.xbits r.toNat

/-- f[r] as an FLEN-bit value. -/
abbrev State.fr (s : State) (r : BitVec 5) : BitVec s.cfg.fbits := s.getF s.cfg.fbits r.toNat

/-- A 12-bit immediate, sign-extended to XLEN (rule R332). -/
abbrev State.imm (s : State) (imm : BitVec 12) : BitVec s.cfg.xbits := imm.signExtend s.cfg.xbits

/-- The pc as an XLEN-bit value. -/
abbrev State.pcx (s : State) : BitVec s.cfg.xbits := BitVec.ofNat s.cfg.xbits s.pc.toNat

/-- The outcome is a next state in which x[rd] holds `v`. -/
def GivesX (o : Out) (s : State) (rd : BitVec 5) (v : BitVec s.cfg.xbits) : Prop := ∃ t, o = .next t ∧ SetsX s t rd v

/-- The outcome is a next state in which x[rd] holds `v` and the flags `fl` have accrued. -/
def GivesXFlags (o : Out) (s : State) (rd : BitVec 5) (v : BitVec s.cfg.xbits) (fl : BitVec 5) : Prop :=
  ∃ t, o = .next t ∧ SetsXFlags s t rd v fl

/-- The outcome is a next state in which f[rd] holds `v` and the flags `fl` have accrued. -/
def GivesF (o : Out) (s : State) (rd : BitVec 5) (v : BitVec s.cfg.fbits) (fl : BitVec 5) : Prop :=
  ∃ t, o = .next t ∧ SetsF s t rd v fl

/-- The outcome is a next state in which f[rd] holds the result `r` NaN-boxed and its flags have accrued (rule R360). -/
def GivesBoxed (o : Out) (s : State) (rd : BitVec 5) {w : Nat} (r : Fp.Res w) : Prop :=
  GivesF o s rd (box s.cfg.fbits r.1) r.2

/-- The outcome is a next state in which the `w` bits `v` stand in memory at `a`. -/
def GivesMem (o : Out) (s : State) (a w : Nat) (v : BitVec w) : Prop := ∃ t, o = .next t ∧ Stores s t a w v

/-- The address of an unprefixed load or store (rule R544). -/
def State.ea (s : State) (rs1 : BitVec 5) (imm : BitVec 12) : Nat := (s.xr rs1 + s.imm imm).toNat

/-- A load of `w` bits at `a` passes the checks of rules R55 and R58. -/
def CanLoad (s : State) (a w : Nat) : Prop := s.checkAccess a (w / 8) .load = none

/-- A store of `w` bits at `a` passes the checks of rules R55 and R58 and misses the program text (rule R64). -/
def CanStore (s : State) (a w : Nat) : Prop :=
  s.checkAccess a (w / 8) .store = none ∧ s.hitsText a (w / 8) = false

/-- `rm` selects the rounding mode `m`: its own, or `fcsr.frm` where it is DYN (rules R110, R265). -/
def Rounds (s : State) (rm : Rm) (m : RoundMode) : Prop := rm = .fixed m ∨ (rm = .dyn ∧ s.frm = m.toBits)

/-- A branch: the pc alone changes, to the target where the condition holds, else past the instruction (rules R332,
R342). -/
def Branches (o : Out) (s : State) (taken : Prop) (imm : BitVec 12) : Prop :=
  ∃ t, o = .next t ∧ OnlyPc s t ∧
    (taken → t.pc.toNat = (s.pcx + (imm ++ 0#1).signExtend s.cfg.xbits).toNat) ∧ (¬taken → PastPc s t 4)

/-- IllegalInstruction with the instruction's word (rules R381, R386). -/
def Illegal (o : Out) (s : State) (i : Instr) : Prop := Raises o s .illegalInstruction (encodeWord s.cfg.setvlEnc i)

/-- What a CSR write of `v` changes beside the pc and an integer register (rules R368, R390). -/
def CsrWritten (s t : State) (c : Csr) (v : Nat) : Prop :=
  match c with
  | .vl => t = { s with pc := t.pc, xregs := t.xregs, vl := v }
  | .vstart => t = { s with pc := t.pc, xregs := t.xregs, vstart := v }
  | .fflags => t = { s with pc := t.pc, xregs := t.xregs, fflags := BitVec.ofNat 5 v }
  | .frm => t = { s with pc := t.pc, xregs := t.xregs, frm := BitVec.ofNat 3 v }
  | .fcsr => t = { s with pc := t.pc, xregs := t.xregs, fflags := BitVec.ofNat 5 v, frm := BitVec.ofNat 3 (v / 32) }
  | .mstatus => t = { s with pc := t.pc, xregs := t.xregs, mie := v.testBit 3, mpie := v.testBit 7 }
  | .mtvec => t = { s with pc := t.pc, xregs := t.xregs, mtvec := BitVec.ofNat 64 v }
  | .mscratch => t = { s with pc := t.pc, xregs := t.xregs, mscratch := BitVec.ofNat 64 v }
  | .mepc => t = { s with pc := t.pc, xregs := t.xregs, mepc := BitVec.ofNat 64 (v / 2 * 2) }
  | .mcause => t = { s with pc := t.pc, xregs := t.xregs, mcause := BitVec.ofNat 64 v }
  | .mtval => t = { s with pc := t.pc, xregs := t.xregs, mtval := BitVec.ofNat 64 v }

/-- The value may be written to the CSR: VL at most XLEN, Vstart below XLEN (rules R30, R31, R33). -/
def CsrTakes (s : State) (c : Csr) (v : Nat) : Prop :=
  (c = .vl → v ≤ s.cfg.xbits) ∧ (c = .vstart → v < s.cfg.xbits)

/-- The outcome is a next state in which the CSR was written with `new` and x[rd] holds its old value; x0 still reads 0,
no other integer register and nothing else differs (rules R368 to R374). -/
def GivesCsr (o : Out) (s : State) (rd : BitVec 5) (c : Csr) (new : BitVec s.cfg.xbits) : Prop :=
  ∃ t, o = .next t ∧ CsrWritten s t c new.toNat ∧
    t.getX s.cfg.xbits rd.toNat = (if rd = 0#5 then 0 else BitVec.ofNat s.cfg.xbits (s.csrGet c)) ∧
    (∀ q, q ≠ rd.toNat → t.getX s.cfg.xbits q = s.getX s.cfg.xbits q) ∧ PastPc s t 4

/-! ## Kinds of instruction -/

/-- A 48-bit instruction (rule R70). -/
def Prefixed (i : Instr) : Prop := (codeWord SetvlEncoding.custom0 i).len = 6

/-- A CSR instruction (rules R369 to R374). -/
def CsrInstr (i : Instr) : Prop :=
  ∃ rd r a, i = .csrrw rd r a ∨ i = .csrrs rd r a ∨ i = .csrrc rd r a ∨ i = .csrrwi rd r a ∨ i = .csrrsi rd r a ∨
    i = .csrrci rd r a

/-- `setvl` (rule R311). -/
def SetvlInstr (i : Instr) : Prop := ∃ rd rs1 imm, i = .setvl rd rs1 imm

/-- A store (rules R124, R178 to R185, R552 to R555, R593 to R595). -/
def StoreInstr (i : Instr) : Prop :=
  (∃ o, i = .svSb o ∨ i = .svSh o ∨ i = .svSw o ∨ i = .svSd o ∨ i = .svFsh o ∨ i = .svFsw o ∨ i = .svFsd o ∨
      i = .svFsq o) ∨
    ∃ a b m, i = .sb a b m ∨ i = .sh a b m ∨ i = .sw a b m ∨ i = .sd a b m ∨ i = .fsh a b m ∨ i = .fsw a b m ∨
      i = .fsd a b m ∨ i = .fsq a b m

/-! ## Prefixed instructions -/

/-- The elements `j < n` of sub-vector `i` of `dst` hold `r j`, byte by byte (bytes of x0 excepted), the FP flags `fl`
are ORed in, and nothing else differs (rules R28, R29a, R264). -/
def ElemsWritten (dst : Opd) (w n i : Nat) (r : Nat → BitVec w) (fl : BitVec 5) (s t : State) : Prop :=
  (∀ j < n, ∀ m < w / 8, s.firstByte dst.file ≤ s.elemByte dst.file dst.num (dst.index n i j) w + m →
    t.regByte dst.file (s.elemByte dst.file dst.num (dst.index n i j) w + m) = (r j).extractLsb' (8 * m) 8) ∧
  (∀ f b, (f = dst.file → b < s.elemByte dst.file dst.num (dst.index n i 0) w ∨
      s.elemByte dst.file dst.num (dst.index n i n) w ≤ b) → t.regByte f b = s.regByte f b) ∧
  t = { s with xregs := t.xregs, fregs := t.fregs, fflags := s.fflags ||| fl }

/-- First index of a prefixed instruction (rules R132, R138). -/
def firstIndex (isvec : Bool) (s : State) : Nat := if isvec then s.vstart else 0

/-- Number of indices of a prefixed instruction: `Vstart .. VL - 1`, or the one index 0 (rules R132, R138, R146). -/
def indexCount (isvec : Bool) (s : State) : Nat := if isvec then s.vl - s.vstart else 1

/-- The first `cnt` indices of a prefixed instruction, run from `s` to `u` (rules R134, R138 to R141): a chain of states,
one for each index in ascending order; an enabled index relates its neighbours by `post`, a disabled one changes
nothing. -/
def Chain (isvec : Bool) (p : Pred) (post : Nat → State → State → Prop) (cnt : Nat) (s u : State) : Prop :=
  ∃ c : Nat → State, c 0 = s ∧
    (∀ k < cnt,
      if enabled p s (firstIndex isvec s + k) then post (firstIndex isvec s + k) (c k) (c (k + 1)) else c (k + 1) = c k) ∧
    c cnt = u

/-- The run of a prefixed instruction that completes (rules R138, R140 to R143, R149): all its indices, then Vstart is 0
(for a vector instruction), the pc is 6 further, and nothing else differs. -/
def RunsOver (isvec : Bool) (p : Pred) (post : Nat → State → State → Prop) (s t : State) : Prop :=
  ∃ u, Chain isvec p post (indexCount isvec s) s u ∧ PastPc s t 6 ∧
    t = { u with pc := t.pc, vstart := if isvec then 0 else s.vstart }

/-- Every element that the enabled indices name lies in the register file (rule R29b). -/
def OpdFits (o : Opd) (w n : Nat) (isvec : Bool) (p : Pred) (s : State) : Prop :=
  ∀ k < indexCount isvec s, enabled p s (firstIndex isvec s + k) = true →
    ∀ j < n, s.elemByte o.file o.num (o.index n (firstIndex isvec s + k) j) w + w / 8 ≤ 128 * s.rb o.file

/-- The state before index number `k` of a prefixed instruction, where none of the lower indices stops: the commits of
the enabled indices in ascending order (rules R138, R141). -/
def stateBefore (en : Nat → Bool) (op : SubOp) (lo : Nat) (s : State) : Nat → State
  | 0 => s
  | k + 1 =>
    if en (lo + k) then op.commit (stateBefore en op lo s k) (lo + k) else stateBefore en op lo s k

/-! ## Prefixed loads and stores -/

/-- The data operand of a prefixed load or store (rules R84, R162). -/
def dataOpd (file : RegFile) (o : MemOps) (s : State) : Opd :=
  { file := file, num := regNum o.data (dataIsV s.cfg), isV := dataIsV s.cfg }

/-- Address of element `j` of sub-vector `i` of `w`-bit elements, where the address vector is read in `u` (rules R163,
R164). -/
def elemAddr (w : Nat) (o : MemOps) (s u : State) (i j : Nat) : Nat :=
  (effAddr s.cfg.xbits o s u o.vtp.svlen.count (w / 8) i j).toNat

/-- The table of rule R163, by the 4-bit code `lsk` (rule R85): the address of element `j` of sub-vector `i`, modulo 2^XLEN.
Base, offset and stride register are those of the start of the instruction `s` (rule R134), the address vector of a gather
or scatter is read in `u` (rule R164). Under LDST_CLASS = literal there is the one sub-vector 0 and every kind is plain
(rule R162). -/
def AddressTable (w : Nat) (o : MemOps) (s u : State) (i j : Nat) : Prop :=
  let x := s.cfg.xbits
  let esz := w / 8
  let svsz := o.vtp.svlen.count * esz
  let base := s.getX x o.base.toNat
  let off := o.imm.signExtend x
  (s.cfg.ldstClass = .literal → i = 0 → elemAddr w o s u i j = (base + off + BitVec.ofNat x (j * esz)).toNat) ∧
  (s.cfg.ldstClass = .vectorData → ∀ lsk : BitVec 4, o.lsk = Lsk.ofBits lsk →
    elemAddr w o s u i j =
      if lsk = 0b0000#4 then (base + off + BitVec.ofNat x (i * svsz + j * esz)).toNat
      else if lsk = 0b0001#4 then (u.elemGet .x (regNum o.base true) i x + off + BitVec.ofNat x (j * esz)).toNat
      else if lsk.toNat < 8 then (base + off + BitVec.ofNat x (i * (lsk.toNat * svsz) + j * esz)).toNat
      else (base + off + BitVec.ofNat x i * s.getX x (8 + (lsk.extractLsb' 0 3).toNat) + BitVec.ofNat x (j * esz)).toNat)

/-- The state before index number `k` of a prefixed load whose lower indices pass their checks. -/
def loadBefore (file : RegFile) (w : Nat) (o : MemOps) (s : State) (k : Nat) : State :=
  stateBefore (enabled o.vtp.pred s) (loadOp (dataOpd file o s) w o s) (firstIndex (memIsVec s) s) s k

/-- Element `i` of the address vector of a gather or scatter lies in the register file (rule R29b). -/
def AddrFits (o : MemOps) (s : State) (i : Nat) : Prop :=
  addrIsV s.cfg o = true → s.elemByte .x (addrOpd o).num i s.cfg.xbits + s.cfg.xbits / 8 ≤ 128 * s.rb .x

/-- Index number `k` of a prefixed load passes its checks (rules R29b, R58, R164). -/
def LoadReady (file : RegFile) (w : Nat) (o : MemOps) (s : State) (k : Nat) : Prop :=
  enabled o.vtp.pred s (firstIndex (memIsVec s) s + k) = true →
    AddrFits o s (firstIndex (memIsVec s) s + k) ∧
    ∀ j < o.vtp.svlen.count,
      s.checkAccess (elemAddr w o s (loadBefore file w o s k) (firstIndex (memIsVec s) s + k) j) (w / 8) .load = none

/-- Index number `k` of a prefixed store passes its checks (rules R29b, R58, R64, R165). -/
def StoreReady (w : Nat) (o : MemOps) (s : State) (k : Nat) : Prop :=
  enabled o.vtp.pred s (firstIndex (memIsVec s) s + k) = true →
    AddrFits o s (firstIndex (memIsVec s) s + k) ∧
    ∀ j < o.vtp.svlen.count,
      s.checkAccess (elemAddr w o s s (firstIndex (memIsVec s) s + k) j) (w / 8) .store = none ∧
      s.hitsText (elemAddr w o s s (firstIndex (memIsVec s) s + k) j) (w / 8) = false

/-- The `n` elements `v j` of `w` bits stand in memory at the addresses `ea j` (modulo 2^XLEN), least significant byte
first; nothing else differs (rules R51, R52, R165). -/
def ElemsStored (w n : Nat) (ea : Nat → Nat) (v : Nat → BitVec w) (s t : State) : Prop :=
  (∀ j < n, ∀ m < w / 8, t.byteAt ((ea j + m) % 2 ^ s.cfg.xbits) = (v j).extractLsb' (8 * m) 8) ∧
  (∀ b, (∀ j < n, ∀ m < w / 8, (ea j + m) % 2 ^ s.cfg.xbits ≠ b) → t.byteAt b = s.byteAt b) ∧
  t = { s with mem := t.mem }

/-- Element `j` is the first element of index number `k` of a prefixed store that hits the program text (rule R64). -/
def HitsTextAt (w : Nat) (o : MemOps) (s : State) (k j : Nat) : Prop :=
  j < o.vtp.svlen.count ∧
  (∀ q < j, s.hitsText (elemAddr w o s s (firstIndex (memIsVec s) s + k) q) (w / 8) = false) ∧
  s.hitsText (elemAddr w o s s (firstIndex (memIsVec s) s + k) j) (w / 8) = true

/-- What one enabled index of a prefixed load of `w`-bit elements does (rule R164). -/
def LoadsElems (file : RegFile) (w : Nat) (o : MemOps) (s : State) (i : Nat) (a b : State) : Prop :=
  ElemsWritten (dataOpd file o s) w o.vtp.svlen.count i (fun j => a.memGet (elemAddr w o s a i j) w) 0#5 a b

/-- What one enabled index of a prefixed store of `w`-bit elements does (rule R165). -/
def StoresElems (file : RegFile) (w : Nat) (o : MemOps) (s : State) (i : Nat) (a b : State) : Prop :=
  ElemsStored w o.vtp.svlen.count (elemAddr w o s s i)
    (fun j => (dataOpd file o s).get s w o.vtp.svlen.count i j) a b

/-- One prefixed load or store: its constructor, the file and width of its data, and whether it needs XLEN = 64. -/
structure MemForm where
  ctor : MemOps → Instr
  file : RegFile
  w    : Nat
  rv64 : Bool

/-- The prefixed loads (rules R167 to R177). -/
def svLoadForms : List MemForm :=
  [⟨.svLb, .x, 8, false⟩, ⟨.svLh, .x, 16, false⟩, ⟨.svLw, .x, 32, false⟩, ⟨.svLd, .x, 64, true⟩,
   ⟨.svLbu, .x, 8, false⟩, ⟨.svLhu, .x, 16, false⟩, ⟨.svLwu, .x, 32, true⟩, ⟨.svFlh, .fp, 16, false⟩,
   ⟨.svFlw, .fp, 32, false⟩, ⟨.svFld, .fp, 64, false⟩, ⟨.svFlq, .fp, 128, false⟩]

/-- The prefixed stores (rules R178 to R185). -/
def svStoreForms : List MemForm :=
  [⟨.svSb, .x, 8, false⟩, ⟨.svSh, .x, 16, false⟩, ⟨.svSw, .x, 32, false⟩, ⟨.svSd, .x, 64, true⟩,
   ⟨.svFsh, .fp, 16, false⟩, ⟨.svFsw, .fp, 32, false⟩, ⟨.svFsd, .fp, 64, false⟩, ⟨.svFsq, .fp, 128, false⟩]

/-- The machine has the form: XLEN = 64 where it needs it, and an FP width that FLEN holds (rule R166). -/
def MemForm.Here (f : MemForm) (s : State) : Prop :=
  (f.rv64 = true → s.cfg.xlen = .rv64) ∧ (f.file = .fp → f.w ≤ s.cfg.fbits)

/-- Some element of index number `k` of the data operand of a prefixed load or store lies past register 127 (rule R29b). -/
def DataOverruns (file : RegFile) (w : Nat) (o : MemOps) (s : State) (k : Nat) : Prop :=
  ∃ j < o.vtp.svlen.count, 128 * s.rb file < s.elemByte file (dataOpd file o s).num
    ((dataOpd file o s).index o.vtp.svlen.count (firstIndex (memIsVec s) s + k) j) w + w / 8

/-- Element `j` is the first of index number `k` whose access is refused, by `e` (rules R166, R385). -/
def RefusedAt (s : State) (k : Access) (w : Nat) (ea : Nat → Nat) (n j : Nat) (e : Exc) : Prop :=
  j < n ∧ (∀ q < j, s.checkAccess (ea q) (w / 8) k = none) ∧ s.checkAccess (ea j) (w / 8) k = some e

end Sys2Proof.Machine

namespace Sys2Proof

open Machine

/-! ## Prefixed computations: where the operands fit, and the run -/

/-- The operands of a P48R instruction lie in the register file. -/
def ROps.Fits (o : ROps) (s : State) : Prop :=
  OpdFits (xOpd o.rd (o.vs1 || o.vs2)) (o.vitp.itype.width s.cfg.xbits) o.vitp.svlen.count (o.vs1 || o.vs2) o.vitp.pred s ∧
  OpdFits (xOpd o.rs1 o.vs1) (o.vitp.itype.width s.cfg.xbits) o.vitp.svlen.count (o.vs1 || o.vs2) o.vitp.pred s ∧
  OpdFits (xOpd o.rs2 o.vs2) (o.vitp.itype.width s.cfg.xbits) o.vitp.svlen.count (o.vs1 || o.vs2) o.vitp.pred s

/-- A P48R instruction runs with the element function `f` (rules R190, R191). -/
def ROps.Runs (o : ROps) (out : Out) (s : State)
    (f : BitVec (o.vitp.itype.width s.cfg.xbits) → BitVec (o.vitp.itype.width s.cfg.xbits) →
      BitVec (o.vitp.itype.width s.cfg.xbits)) : Prop :=
  ∃ t, out = .next t ∧ RunsOver (o.vs1 || o.vs2) o.vitp.pred
    (fun i a b => ElemsWritten (xOpd o.rd (o.vs1 || o.vs2)) (o.vitp.itype.width s.cfg.xbits) o.vitp.svlen.count i
      (fun j => f ((xOpd o.rs1 o.vs1).get a _ o.vitp.svlen.count i j) ((xOpd o.rs2 o.vs2).get a _ o.vitp.svlen.count i j))
      0#5 a b) s t

/-- The operands of a P48I instruction lie in the register file. -/
def IOps.Fits (o : IOps) (s : State) : Prop :=
  OpdFits (xOpd o.rd o.vd) (o.vitp.itype.width s.cfg.xbits) o.vitp.svlen.count (o.vd || o.vs1) o.vitp.pred s ∧
  OpdFits (xOpd o.rs1 o.vs1) (o.vitp.itype.width s.cfg.xbits) o.vitp.svlen.count (o.vd || o.vs1) o.vitp.pred s

/-- A P48I instruction runs with the element function `g` (rule R230). -/
def IOps.Runs (o : IOps) (out : Out) (s : State)
    (g : BitVec (o.vitp.itype.width s.cfg.xbits) → BitVec (o.vitp.itype.width s.cfg.xbits)) : Prop :=
  ∃ t, out = .next t ∧ RunsOver (o.vd || o.vs1) o.vitp.pred
    (fun i a b => ElemsWritten (xOpd o.rd o.vd) (o.vitp.itype.width s.cfg.xbits) o.vitp.svlen.count i
      (fun j => g ((xOpd o.rs1 o.vs1).get a _ o.vitp.svlen.count i j)) 0#5 a b) s t

/-- The immediate as an element: sign-extended to XLEN, then cut to the element width (rule R230). -/
abbrev IOps.m (o : IOps) (s : State) : BitVec (o.vitp.itype.width s.cfg.xbits) :=
  (o.imm.signExtend s.cfg.xbits).setWidth _

/-- The operands of a shift-immediate P48I instruction lie in the register file. -/
def ShOps.Fits (o : ShOps) (s : State) : Prop :=
  OpdFits (xOpd o.rd o.vd) (o.vitp.itype.width s.cfg.xbits) o.vitp.svlen.count (o.vd || o.vs1) o.vitp.pred s ∧
  OpdFits (xOpd o.rs1 o.vs1) (o.vitp.itype.width s.cfg.xbits) o.vitp.svlen.count (o.vd || o.vs1) o.vitp.pred s

/-- A shift-immediate P48I instruction runs with the element function `g` (rules R230, R233). -/
def ShOps.Runs (o : ShOps) (out : Out) (s : State)
    (g : BitVec (o.vitp.itype.width s.cfg.xbits) → BitVec (o.vitp.itype.width s.cfg.xbits)) : Prop :=
  ∃ t, out = .next t ∧ RunsOver (o.vd || o.vs1) o.vitp.pred
    (fun i a b => ElemsWritten (xOpd o.rd o.vd) (o.vitp.itype.width s.cfg.xbits) o.vitp.svlen.count i
      (fun j => g ((xOpd o.rs1 o.vs1).get a _ o.vitp.svlen.count i j)) 0#5 a b) s t

/-- The destination of a P48U instruction lies in the register file. -/
def UOps.Fits (o : UOps) (s : State) : Prop :=
  OpdFits (xOpd o.rd o.vd) (o.vitp.itype.width s.cfg.xbits) o.vitp.svlen.count o.vd o.vitp.pred s

/-- A P48U instruction writes the low bits of `v` to every element (rule R247). -/
def UOps.Runs (o : UOps) (out : Out) (s : State) (v : BitVec s.cfg.xbits) : Prop :=
  ∃ t, out = .next t ∧ RunsOver o.vd o.vitp.pred
    (fun i a b => ElemsWritten (xOpd o.rd o.vd) (o.vitp.itype.width s.cfg.xbits) o.vitp.svlen.count i
      (fun _ => v.setWidth _) 0#5 a b) s t

/-- The destination of a P48FR instruction, in file `file` (rules R84, R266). -/
def FrOps.dst (o : FrOps) (file : RegFile) : Opd :=
  { file := file, num := regNum o.rd (o.vs1 || o.vs2), isV := o.vs1 || o.vs2 }

/-- The operands of a P48FR instruction lie in the register files; `wd` is the width of the destination's elements. -/
def FrOps.Fits (o : FrOps) (s : State) (file : RegFile) (wd : Nat) : Prop :=
  OpdFits (o.dst file) wd o.vtp.svlen.count (o.vs1 || o.vs2) o.vtp.pred s ∧
  OpdFits (fOpd o.rs1 o.vs1) o.fmt.width o.vtp.svlen.count (o.vs1 || o.vs2) o.vtp.pred s ∧
  OpdFits (fOpd o.rs2 o.vs2) o.fmt.width o.vtp.svlen.count (o.vs1 || o.vs2) o.vtp.pred s

/-- A P48FR instruction runs with the element function `f`; the flags of a sub-vector's elements are ORed in (rules R264,
R266). -/
def FrOps.Runs (o : FrOps) (out : Out) (s : State) (file : RegFile) (wd : Nat)
    (f : BitVec o.fmt.width → BitVec o.fmt.width → Fp.Res wd) : Prop :=
  ∃ t, out = .next t ∧ RunsOver (o.vs1 || o.vs2) o.vtp.pred
    (fun i a b => ElemsWritten (o.dst file) wd o.vtp.svlen.count i
      (fun j => (f ((fOpd o.rs1 o.vs1).get a _ o.vtp.svlen.count i j)
        ((fOpd o.rs2 o.vs2).get a _ o.vtp.svlen.count i j)).1)
      (flagsOf (fun j => (f ((fOpd o.rs1 o.vs1).get a _ o.vtp.svlen.count i j)
        ((fOpd o.rs2 o.vs2).get a _ o.vtp.svlen.count i j)).2) o.vtp.svlen.count 0) a b) s t

/-- The operands of a P48FI instruction lie in the register files `fd` and `fs`, with elements of `wd` and `ws` bits. -/
def FiOps.Fits (o : FiOps) (s : State) (fd : RegFile) (wd : Nat) (fs : RegFile) (ws : Nat) : Prop :=
  OpdFits ⟨fd, regNum o.rd o.vd, o.vd⟩ wd o.vtp.svlen.count (o.vd || o.vs1) o.vtp.pred s ∧
  OpdFits ⟨fs, regNum o.rs1 o.vs1, o.vs1⟩ ws o.vtp.svlen.count (o.vd || o.vs1) o.vtp.pred s

/-- A P48FI instruction runs with the element function `f` (rules R264, R266). -/
def FiOps.Runs (o : FiOps) (out : Out) (s : State) (fd : RegFile) (wd : Nat) (fs : RegFile) (ws : Nat)
    (f : BitVec ws → Fp.Res wd) : Prop :=
  ∃ t, out = .next t ∧ RunsOver (o.vd || o.vs1) o.vtp.pred
    (fun i a b => ElemsWritten ⟨fd, regNum o.rd o.vd, o.vd⟩ wd o.vtp.svlen.count i
      (fun j => (f (Opd.get ⟨fs, regNum o.rs1 o.vs1, o.vs1⟩ a ws o.vtp.svlen.count i j)).1)
      (flagsOf (fun j => (f (Opd.get ⟨fs, regNum o.rs1 o.vs1, o.vs1⟩ a ws o.vtp.svlen.count i j)).2)
        o.vtp.svlen.count 0) a b) s t

/-- The operands of a P48FR4 instruction lie in the FP register file (rule R294). -/
def Fr4Ops.Fits (o : Fr4Ops) (s : State) : Prop :=
  OpdFits (fOpd o.rd (o.vs2 || o.vs3)) o.fmt.width o.vtp.svlen.count (o.vs2 || o.vs3) o.vtp.pred s ∧
  OpdFits (fOpd o.rs1 (o.vs2 || o.vs3)) o.fmt.width o.vtp.svlen.count (o.vs2 || o.vs3) o.vtp.pred s ∧
  OpdFits (fOpd o.rs2 o.vs2) o.fmt.width o.vtp.svlen.count (o.vs2 || o.vs3) o.vtp.pred s ∧
  OpdFits (fOpd o.rs3 o.vs3) o.fmt.width o.vtp.svlen.count (o.vs2 || o.vs3) o.vtp.pred s

/-- A P48FR4 instruction runs with the element function `f` (rules R264, R266, R294). -/
def Fr4Ops.Runs (o : Fr4Ops) (out : Out) (s : State)
    (f : BitVec o.fmt.width → BitVec o.fmt.width → BitVec o.fmt.width → Fp.Res o.fmt.width) : Prop :=
  ∃ t, out = .next t ∧ RunsOver (o.vs2 || o.vs3) o.vtp.pred
    (fun i a b => ElemsWritten (fOpd o.rd (o.vs2 || o.vs3)) o.fmt.width o.vtp.svlen.count i
      (fun j => (f ((fOpd o.rs1 (o.vs2 || o.vs3)).get a _ o.vtp.svlen.count i j)
        ((fOpd o.rs2 o.vs2).get a _ o.vtp.svlen.count i j) ((fOpd o.rs3 o.vs3).get a _ o.vtp.svlen.count i j)).1)
      (flagsOf (fun j => (f ((fOpd o.rs1 (o.vs2 || o.vs3)).get a _ o.vtp.svlen.count i j)
        ((fOpd o.rs2 o.vs2).get a _ o.vtp.svlen.count i j) ((fOpd o.rs3 o.vs3).get a _ o.vtp.svlen.count i j)).2)
        o.vtp.svlen.count 0) a b) s t

/-! ## The shape of a prefixed computation -/

/-- What a prefixed computation (P48R to P48FR4) runs over: its register operands with the widths of their elements, the
sub-vector length, the predicate, and whether the machine has the instruction (rules R131 to R133, R385). -/
structure Shape where
  opds  : List (Opd × Nat)
  svlen : Nat
  pred  : Pred
  legal : Bool

/-- It is a vector instruction: some operand is classed V (rule R132). -/
def Shape.isVec (h : Shape) : Bool := h.opds.any (fun p => p.1.isV)

/-- All its operands lie in the register files (rule R29b). -/
def Shape.Fits (h : Shape) (s : State) : Prop := ∀ p ∈ h.opds, OpdFits p.1 p.2 h.svlen h.isVec h.pred s

/-- A rounding mode is to be had: the field's own, or a legal `frm` (rule R265). -/
def canRound (s : State) : Rm → Bool
  | .fixed _ => true
  | .dyn => decide (s.frm.toNat ≤ 4)

/-- P48R (rules R76, R84, R190). -/
def ROps.shape (o : ROps) (legal : Bool) (s : State) : Shape :=
  let w := o.vitp.itype.width s.cfg.xbits
  { opds := [(xOpd o.rd (o.vs1 || o.vs2), w), (xOpd o.rs1 o.vs1, w), (xOpd o.rs2 o.vs2, w)],
    svlen := o.vitp.svlen.count, pred := o.vitp.pred, legal := legal }

/-- P48I (rules R77, R84, R230). -/
def IOps.shape (o : IOps) (s : State) : Shape :=
  let w := o.vitp.itype.width s.cfg.xbits
  { opds := [(xOpd o.rd o.vd, w), (xOpd o.rs1 o.vs1, w)], svlen := o.vitp.svlen.count, pred := o.vitp.pred,
    legal := true }

/-- Shift-immediate P48I: the shift amount is below the element width (rules R230, R233). -/
def ShOps.shape (o : ShOps) (s : State) : Shape :=
  let w := o.vitp.itype.width s.cfg.xbits
  { opds := [(xOpd o.rd o.vd, w), (xOpd o.rs1 o.vs1, w)], svlen := o.vitp.svlen.count, pred := o.vitp.pred,
    legal := decide (o.shamt.toNat < w) }

/-- P48U (rules R78, R247). -/
def UOps.shape (o : UOps) (s : State) : Shape :=
  { opds := [(xOpd o.rd o.vd, o.vitp.itype.width s.cfg.xbits)], svlen := o.vitp.svlen.count, pred := o.vitp.pred,
    legal := true }

/-- P48FR: the format fits FLEN, and `legal` beside (rules R79, R260, R266). -/
def FrOps.shape (o : FrOps) (file : RegFile) (wd : Nat) (legal : Bool) (s : State) : Shape :=
  { opds := [(o.dst file, wd), (fOpd o.rs1 o.vs1, o.fmt.width), (fOpd o.rs2 o.vs2, o.fmt.width)],
    svlen := o.vtp.svlen.count, pred := o.vtp.pred, legal := decide (o.fmt.width ≤ s.cfg.fbits) && legal }

/-- P48FI: the format fits FLEN, and `legal` beside (rules R80, R260, R262, R266). -/
def FiOps.shape (o : FiOps) (fd : RegFile) (wd : Nat) (fs : RegFile) (ws : Nat) (legal : Bool) (s : State) : Shape :=
  { opds := [(⟨fd, regNum o.rd o.vd, o.vd⟩, wd), (⟨fs, regNum o.rs1 o.vs1, o.vs1⟩, ws)],
    svlen := o.vtp.svlen.count, pred := o.vtp.pred, legal := decide (o.fmt.width ≤ s.cfg.fbits) && legal }

/-- P48FR4: the format fits FLEN, and `legal` beside (rules R81, R266, R294). -/
def Fr4Ops.shape (o : Fr4Ops) (legal : Bool) (s : State) : Shape :=
  let w := o.fmt.width
  let v := o.vs2 || o.vs3
  { opds := [(fOpd o.rd v, w), (fOpd o.rs1 v, w), (fOpd o.rs2 o.vs2, w), (fOpd o.rs3 o.vs3, w)],
    svlen := o.vtp.svlen.count, pred := o.vtp.pred, legal := decide (w ≤ s.cfg.fbits) && legal }

/-- The shape of a prefixed computation; `none` for a load, a store or an unprefixed instruction. -/
def Instr.shape (s : State) : Instr → Option Shape
  | .svAdd o | .svSub o | .svSll o | .svSlt o | .svSltu o | .svXor o | .svSrl o | .svSra o | .svOr o | .svAnd o
  | .svAddw o | .svSubw o | .svSllw o | .svSrlw o | .svSraw o => some (o.shape true s)
  | .svMul o | .svMulh o | .svMulhsu o | .svMulhu o | .svDiv o | .svDivu o | .svRem o | .svRemu o | .svMulw o
  | .svDivw o | .svDivuw o | .svRemw o | .svRemuw o => some (o.shape s.cfg.hasM s)
  | .svAddi o | .svSlti o | .svSltiu o | .svXori o | .svOri o | .svAndi o | .svAddiw o => some (o.shape s)
  | .svSlli o | .svSrli o | .svSrai o | .svSlliw o | .svSrliw o | .svSraiw o => some (o.shape s)
  | .svLui o | .svAuipc o => some (o.shape s)
  | .svFaddFmt rm o | .svFsubFmt rm o | .svFmulFmt rm o | .svFdivFmt rm o =>
    some (o.shape .fp o.fmt.width (canRound s rm) s)
  | .svFsgnjFmt o | .svFsgnjnFmt o | .svFsgnjxFmt o | .svFminFmt o | .svFmaxFmt o =>
    some (o.shape .fp o.fmt.width true s)
  | .svFeqFmt o | .svFltFmt o | .svFleFmt o => some (o.shape .x s.cfg.xbits true s)
  | .svFsqrtFmt rm o => some (o.shape .fp o.fmt.width .fp o.fmt.width (canRound s rm) s)
  | .svFcvtWFmt rm o | .svFcvtWuFmt rm o => some (o.shape .x 32 .fp o.fmt.width (canRound s rm) s)
  | .svFcvtLFmt rm o | .svFcvtLuFmt rm o =>
    some (o.shape .x 64 .fp o.fmt.width (s.cfg.xlen == .rv64 && canRound s rm) s)
  | .svFcvtFmtW rm o | .svFcvtFmtWu rm o => some (o.shape .fp o.fmt.width .x 32 (canRound s rm) s)
  | .svFcvtFmtL rm o | .svFcvtFmtLu rm o =>
    some (o.shape .fp o.fmt.width .x 64 (s.cfg.xlen == .rv64 && canRound s rm) s)
  | .svFmvXFmt o => some (o.shape .x o.fmt.width .fp o.fmt.width (decide (o.fmt.width ≤ s.cfg.xbits)) s)
  | .svFmvFmtX o => some (o.shape .fp o.fmt.width .x o.fmt.width (decide (o.fmt.width ≤ s.cfg.xbits)) s)
  | .svFclassFmt o => some (o.shape .x s.cfg.xbits .fp o.fmt.width true s)
  | .svFcvtFmtFmt src rm o =>
    some (o.shape .fp o.fmt.width .fp src.width
      (decide (src.width ≤ s.cfg.fbits) && src != o.fmt && canRound s rm) s)
  | .svFmaddFmt rm o | .svFmsubFmt rm o | .svFnmsubFmt rm o | .svFnmaddFmt rm o => some (o.shape (canRound s rm) s)
  | _ => none

end Sys2Proof
end

