-- ==== Sys2Proof/Certificates/Slice0/Obligations.lean ====
section
/-! DEFINITION. The statements for the provers, from the numbered rules of spec/, in the terms of Safety.lean. -/

open Sys2Proof Sys2Proof.Machine

/-! ## Encoding -/

/-- Decoding an encoded well-formed instruction gives it back, whatever the pattern of `setvl` (rules R66, R73 to R99, R331,
R332). `setvl` has no encoding in the spec and has its own statement. -/
def Obligations.DecodeOfEncode : Prop :=
  ∀ (enc : SetvlEncoding) (i : Instr) (rest : List Byte), i.wellFormed enc = true → ¬SetvlInstr i →
    decode enc (encode enc i ++ rest) = .ok (i, rest)

/-- The same of SETVL. Under any pattern: a word of SETVL that no fixed encoding claims decodes to the instruction it is the
encoding of (rule R315; the fixed encodings come first, log entry 17). Under the pattern that the machine carries at reset,
the model's choice (log entry 3): the word made of any operands decodes to them. -/
def Obligations.DecodeOfEncodeSetvl : Prop :=
  (∀ (enc : SetvlEncoding) (i : Instr) (rest : List Byte) (e : DecodeError), i.wellFormed enc = true → SetvlInstr i →
    instrLen (encodeWord enc i % 2 ^ 16) = some enc.len → decodeFixed enc.len (encodeWord enc i) = .error e →
    decode enc (encode enc i ++ rest) = .ok (i, rest)) ∧
  (∀ (rd rs1 : BitVec 5) (imm : Nat) (rest : List Byte), imm < 2 ^ 12 →
    decode SetvlEncoding.custom0 (leBytes 4 (setvlWord SetvlEncoding.custom0 rd rs1 imm) ++ rest) =
      .ok (.setvl rd rs1 ⟨imm, setvlWord SetvlEncoding.custom0 rd rs1 imm⟩, rest))

/-- Words the spec writes out decode to the instructions it says they are (the examples of rules R151, R167, R180, R196,
R240, R248, R268, R277, R295, R366, R512, R390). -/
def Obligations.GivenWordsDecode : Prop :=
  decodeTableWord 48 0x00140810671F =
    some (.svAddi ⟨16, 8, 1, true, true, ⟨.b, .on .x9 true, .two⟩⟩) ∧
  decodeTableWord 48 0x00028800009F = some (.svLb ⟨16, 5, 0, .c, ⟨.always, .one⟩⟩) ∧
  decodeTableWord 48 0x00152220149F = some (.svSw ⟨1, 10, 4, .x, ⟨.on .x9 false, .one⟩⟩) ∧
  decodeTableWord 48 0x00580430201F = some (.svAdd ⟨8, 16, 5, true, false, ⟨.b, .always, .four⟩⟩) ∧
  decodeTableWord 48 0x00761510609F = some (.svSlli ⟨10, 12, 7, true, true, ⟨.b, .always, .one⟩⟩) ∧
  decodeTableWord 48 0x12345534501F = some (.svLui ⟨10, 0x12345, true, ⟨.w, .always, .four⟩⟩) ∧
  decodeTableWord 48 0x00C57450601F = some (.svFaddFmt .dyn ⟨.s, 8, 10, 12, true, true, ⟨.always, .four⟩⟩) ∧
  decodeTableWord 48 0xA0C52A50609F = some (.svFeqFmt ⟨.s, 20, 10, 12, true, true, ⟨.always, .one⟩⟩) ∧
  decodeTableWord 48 0x60157440101F =
    some (.svFmaddFmt .dyn ⟨.s, 8, 10, 1, 12, false, true, ⟨.always, .four⟩⟩) ∧
  decodeTableWord 32 0x006283B3 = some (.add 7 5 6) ∧
  decodeTableWord 32 0x0330000F = some (.fence 0 0 0x033) ∧
  decodeTableWord 32 0x30200073 = some .mret

/-! ## The machine -/

/-- The machine right after reset satisfies the invariant. The values of the registers are the model's choice (log entry
1); that they are legal is what is stated. -/
def Obligations.ResetInvariant : Prop := State.Inv State.reset

/-- What the spec fixes of the state after reset: x0 reads 0, Vstart is 0, MIE is 0, the pc is RESET_PC (rules R41, R410,
R411). That it holds so in this model rests on the parameters of log entry 2. -/
def Obligations.ResetValues : Prop :=
  State.reset.vstart = 0 ∧ State.reset.mie = false ∧ State.reset.pc = State.reset.cfg.resetPc ∧
    State.reset.getX State.reset.cfg.xbits 0 = 0

/-- Every step keeps the invariant: memory and the register files stay canonical and in range, x0 holds nothing, the pc
stays even and below 2^XLEN, VL and Vstart stay legal, the trap registers stay XLEN-bit values. -/
def Obligations.StepKeepsInvariant : Prop := ∀ s t : State, State.Inv s → step s = .next t → State.Inv t

/-- A step whose bytes at the pc decode to an instruction runs that instruction, in the state it starts from: the pc is
even, the bytes do not wrap past the top of the address space and may be fetched (rules R36, R50, R54, R66). -/
def Obligations.StepRunsDecoded : Prop :=
  ∀ (s : State) (bs : List Byte) (i : Instr), decode s.cfg.setvlEnc bs = .ok (i, []) → s.pc.toNat % 2 = 0 →
    s.pc.toNat + bs.length ≤ 2 ^ s.cfg.xbits → s.admits s.pc.toNat bs.length .fetch = true →
    (∀ (k : Nat) (h : k < bs.length), s.byteAt ((s.pc.toNat + k) % 2 ^ s.cfg.xbits) = bs[k]) → step s = exec i s

/-- What a fetch reads where it succeeds: an even pc, the length its first parcel announces, and that many bytes, the
lowest address least significant (rules R50, R54, R66). -/
def Obligations.FetchReads : Prop :=
  ∀ (s : State) (len w : Nat), fetch s = .word len w →
    s.pc.toNat % 2 = 0 ∧ (len = 2 ∨ len = 4 ∨ len = 6) ∧ w < 2 ^ (8 * len) ∧ instrLen (w % 2 ^ 16) = some len ∧
      ∀ k < len, w / 2 ^ (8 * k) % 256 = (s.byteAt ((s.pc.toNat + k) % 2 ^ s.cfg.xbits)).toNat

/-- What a step does where the fetch fails, in this order: an odd pc, a first parcel that may not be fetched, a first parcel
that announces no defined length (bits 5:0 = 111111: IllegalInstruction with the parcel), an instruction that wraps past the
top of the address space, a later parcel that may not be fetched (rules R36, R54, R58, R66, R383, R385). The first parcel is
`p`, its lower-addressed byte the least significant, and the length is rule R66's. That the wrap comes before the later
parcels is the model's reading (log entry 16), and so is the pc as what the fault of a later parcel records (log entry
10). -/
def Obligations.FetchExceptions : Prop :=
  ∀ (s : State) (p : Nat),
    p = (s.byteAt (s.pc.toNat % 2 ^ s.cfg.xbits)).toNat + 256 * (s.byteAt ((s.pc.toNat + 1) % 2 ^ s.cfg.xbits)).toNat →
    (s.pc.toNat % 2 = 1 → Raises (step s) s .instructionAddressMisaligned s.pc.toNat) ∧
    (s.pc.toNat % 2 = 0 → s.admits s.pc.toNat 2 .fetch = false →
      Raises (step s) s .instructionAccessFault s.pc.toNat) ∧
    (s.pc.toNat % 2 = 0 → s.admits s.pc.toNat 2 .fetch = true →
      (p % 64 = 63 → Raises (step s) s .illegalInstruction p) ∧
      ∀ len, ((len = 2 ∧ p % 4 ≠ 3) ∨ (len = 4 ∧ p % 4 = 3 ∧ p / 4 % 8 ≠ 7) ∨ (len = 6 ∧ p % 64 = 31)) →
        (2 ^ s.cfg.xbits < s.pc.toNat + len → step s = .fault (.fetchWrap s.pc)) ∧
        (s.pc.toNat + len ≤ 2 ^ s.cfg.xbits → s.admits s.pc.toNat len .fetch = false →
          Raises (step s) s .instructionAccessFault s.pc.toNat))

/-- A fetched word that is no instruction raises IllegalInstruction with the word (rules R99, R100, R386, R596), a 16-bit
parcel where HAS_C holds excepted. -/
def Obligations.UndecodedIsIllegal : Prop :=
  ∀ (s : State) (len w : Nat) (e : DecodeError), fetch s = .word len w → decodeWord s.cfg.setvlEnc len w = .error e →
    (e ≠ .compressed ∨ s.cfg.hasC = false) → Raises (step s) s .illegalInstruction w

/-! ## Registers and memory -/

/-- x0 reads as zero and a write to it is discarded (rule R21). -/
def Obligations.XZero : Prop :=
  ∀ s : State, s.getX s.cfg.xbits 0 = 0 ∧ ∀ v : BitVec s.cfg.xbits, s.putX s.cfg.xbits 0 v = s

/-- An element that lies outside x0 reads back what was written to it, and every byte outside it reads as before (rules
R26, R27, R28). -/
def Obligations.ElementWrite : Prop :=
  ∀ (s : State) (f : RegFile) (n k w : Nat) (v : BitVec w), w % 8 = 0 →
    (s.firstByte f ≤ s.elemByte f n k w → (s.elemPut f n k w v).elemGet f n k w = v) ∧
    (∀ g b, (g = f → b < s.elemByte f n k w ∨ s.elemByte f n k w + w / 8 ≤ b) →
      (s.elemPut f n k w v).regByte g b = s.regByte g b) ∧
    (∀ b, b < s.firstByte f → (s.elemPut f n k w v).regByte f b = 0)

/-- Data accesses are little-endian: the byte at the lowest address of an access holds the least significant 8 bits of the
value, in a read and in a write (rules R51, R52). -/
def Obligations.MemoryLittleEndian : Prop :=
  ∀ (s : State) (a w : Nat) (v : BitVec w), w % 8 = 0 → w ≤ 128 →
    (∀ m < w / 8, (s.memGet a w).extractLsb' (8 * m) 8 = s.byteAt ((a + m) % 2 ^ s.cfg.xbits)) ∧
    (∀ m < w / 8, (s.memPut a w v).byteAt ((a + m) % 2 ^ s.cfg.xbits) = v.extractLsb' (8 * m) 8) ∧
    (∀ b, (∀ m < w / 8, (a + m) % 2 ^ s.cfg.xbits ≠ b) → (s.memPut a w v).byteAt b = s.byteAt b) ∧
    (s.memPut a w v).memGet a w = v

/-- When an access is refused: alignment first (under MISALIGNED = trap), then every byte must be admitted; the exception
is that of the kind of access (rules R55, R58, R383). -/
def Obligations.AccessChecks : Prop :=
  ∀ (s : State) (a n : Nat) (k : Access),
    (s.cfg.misaligned = .trap → a % n ≠ 0 → s.checkAccess a n k = some k.misaligned) ∧
    ((s.cfg.misaligned = .support ∨ a % n = 0) →
      ((∀ m < n, ∃ r ∈ s.cfg.backed, r.base ≤ (a + m) % 2 ^ s.cfg.xbits ∧
          (a + m) % 2 ^ s.cfg.xbits < r.base + r.size ∧
          (match k with | .load => r.load | .store => r.store | .fetch => r.fetch) = true) →
        s.checkAccess a n k = none) ∧
      (∀ m < n, (∀ r ∈ s.cfg.backed, r.base ≤ (a + m) % 2 ^ s.cfg.xbits →
          (a + m) % 2 ^ s.cfg.xbits < r.base + r.size →
          (match k with | .load => r.load | .store => r.store | .fetch => r.fetch) = false) →
        s.checkAccess a n k = some k.accessFault))

/-- The fields of a prefixed instruction. Register numbers: a scalar's is the field zero-extended; for a vector bit 6 is the
field's bit 0, bits 5:1 are its bits 5:1, bit 0 is 0 (rule R83). The svlen code (rule R86). The pred code: 001 is
reserved, 000 is unpredicated, and else the sub-vector operation executes when the corresponding bit of `x[8 +
pred[2:1]]` equals `pred[0]` (rules R37, R88). The fields of vtp5 and vitp6 (rules R92, R93) and the element width (rule
R89). -/
def Obligations.SubVectorFields : Prop :=
  (∀ r : BitVec 6, regNum r false = r.toNat ∧
    BitVec.ofNat 7 (regNum r true) = r.extractLsb' 0 1 ++ (r.extractLsb' 1 5 ++ 0#1) ∧ regNum r true < 128) ∧
  (∀ c : BitVec 2, (SvLen.ofBits c).count = if c = 0#2 then 4 else c.toNat) ∧
  (∀ c : BitVec 3, (Pred.ofBits? c = none ↔ c = 0b001#3) ∧
    ∀ (p : Pred) (s : State) (i : Nat), Pred.ofBits? c = some p →
      (enabled p s i = true ↔ c = 0b000#3 ∨
        (s.getX s.cfg.xbits (8 + (c.extractLsb' 1 2).toNat)).getLsbD i = c.getLsbD 0)) ∧
  (∀ b : BitVec 5, (Vtp.ofBits? b = none ↔ b.extractLsb' 2 3 = 0b001#3) ∧
    ∀ v, Vtp.ofBits? b = some v →
      Pred.ofBits? (b.extractLsb' 2 3) = some v.pred ∧ v.svlen = SvLen.ofBits (b.extractLsb' 0 2)) ∧
  (∀ b : BitVec 6, (Vitp.ofBits? b = none ↔ b.extractLsb' 2 2 = 0b01#2) ∧
    ∀ v, Vitp.ofBits? b = some v →
      Pred.ofBits? (0#1 ++ b.extractLsb' 2 2) = some v.pred ∧ v.svlen = SvLen.ofBits (b.extractLsb' 0 2) ∧
      ∀ xlen, v.itype.width xlen =
        if b.extractLsb' 4 2 = 0#2 then 8 else if b.extractLsb' 4 2 = 1#2 then 16
        else if b.extractLsb' 4 2 = 2#2 then 32 else xlen)

/-! ## Unprefixed integer instructions (rules R500 to R543) -/

/-- LUI, AUIPC, ADDI, SLTI, SLTIU, XORI, ORI, ANDI (rules R501 to R508). -/
def Obligations.ImmediateArithmetic : Prop :=
  ∀ (rd rs1 : BitVec 5) (imm : BitVec 12) (up : BitVec 20) (s : State),
    GivesX (exec (.lui rd up) s) s rd ((up ++ 0#12).signExtend s.cfg.xbits) ∧
    GivesX (exec (.auipc rd up) s) s rd (s.pcx + (up ++ 0#12).signExtend s.cfg.xbits) ∧
    GivesX (exec (.addi rd rs1 imm) s) s rd (s.xr rs1 + s.imm imm) ∧
    GivesX (exec (.slti rd rs1 imm) s) s rd (if (s.xr rs1).toInt < (s.imm imm).toInt then 1 else 0) ∧
    GivesX (exec (.sltiu rd rs1 imm) s) s rd (if (s.xr rs1).toNat < (s.imm imm).toNat then 1 else 0) ∧
    GivesX (exec (.xori rd rs1 imm) s) s rd (s.xr rs1 ^^^ s.imm imm) ∧
    GivesX (exec (.ori rd rs1 imm) s) s rd (s.xr rs1 ||| s.imm imm) ∧
    GivesX (exec (.andi rd rs1 imm) s) s rd (s.xr rs1 &&& s.imm imm)

/-- SLLI, SRLI, SRAI: a shift amount below XLEN shifts, any other is IllegalInstruction (rules R509 to R511). -/
def Obligations.ImmediateShifts : Prop :=
  ∀ (rd rs1 : BitVec 5) (sh : BitVec 6) (s : State),
    (sh.toNat < s.cfg.xbits →
      GivesX (exec (.slli rd rs1 sh) s) s rd (s.xr rs1 <<< sh.toNat) ∧
      GivesX (exec (.srli rd rs1 sh) s) s rd (s.xr rs1 >>> sh.toNat) ∧
      GivesX (exec (.srai rd rs1 sh) s) s rd ((s.xr rs1).sshiftRight sh.toNat)) ∧
    (s.cfg.xbits ≤ sh.toNat →
      Illegal (exec (.slli rd rs1 sh) s) s (.slli rd rs1 sh) ∧ Illegal (exec (.srli rd rs1 sh) s) s (.srli rd rs1 sh) ∧
      Illegal (exec (.srai rd rs1 sh) s) s (.srai rd rs1 sh))

/-- ADD, SUB, SLL, SLT, SLTU, XOR, SRL, SRA, OR, AND (rules R512 to R521). -/
def Obligations.RegisterArithmetic : Prop :=
  ∀ (rd rs1 rs2 : BitVec 5) (s : State),
    GivesX (exec (.add rd rs1 rs2) s) s rd (s.xr rs1 + s.xr rs2) ∧
    GivesX (exec (.sub rd rs1 rs2) s) s rd (s.xr rs1 - s.xr rs2) ∧
    GivesX (exec (.sll rd rs1 rs2) s) s rd (s.xr rs1 <<< ((s.xr rs2).toNat % s.cfg.xbits)) ∧
    GivesX (exec (.slt rd rs1 rs2) s) s rd (if (s.xr rs1).toInt < (s.xr rs2).toInt then 1 else 0) ∧
    GivesX (exec (.sltu rd rs1 rs2) s) s rd (if (s.xr rs1).toNat < (s.xr rs2).toNat then 1 else 0) ∧
    GivesX (exec (.xor rd rs1 rs2) s) s rd (s.xr rs1 ^^^ s.xr rs2) ∧
    GivesX (exec (.srl rd rs1 rs2) s) s rd (s.xr rs1 >>> ((s.xr rs2).toNat % s.cfg.xbits)) ∧
    GivesX (exec (.sra rd rs1 rs2) s) s rd ((s.xr rs1).sshiftRight ((s.xr rs2).toNat % s.cfg.xbits)) ∧
    GivesX (exec (.or rd rs1 rs2) s) s rd (s.xr rs1 ||| s.xr rs2) ∧
    GivesX (exec (.and rd rs1 rs2) s) s rd (s.xr rs1 &&& s.xr rs2)

/-- ADDIW, SLLIW, SRLIW, SRAIW, ADDW, SUBW, SLLW, SRLW, SRAW at XLEN = 64 (rules R522 to R530): the low 32 bits,
sign-extended. -/
def Obligations.WordArithmetic : Prop :=
  ∀ (rd rs1 rs2 sh : BitVec 5) (imm : BitVec 12) (s : State), s.cfg.xlen = .rv64 →
    GivesX (exec (.addiw rd rs1 imm) s) s rd (((s.xr rs1 + s.imm imm).setWidth 32).signExtend _) ∧
    GivesX (exec (.slliw rd rs1 sh) s) s rd ((((s.xr rs1).setWidth 32) <<< sh.toNat).signExtend _) ∧
    GivesX (exec (.srliw rd rs1 sh) s) s rd ((((s.xr rs1).setWidth 32) >>> sh.toNat).signExtend _) ∧
    GivesX (exec (.sraiw rd rs1 sh) s) s rd ((((s.xr rs1).setWidth 32).sshiftRight sh.toNat).signExtend _) ∧
    GivesX (exec (.addw rd rs1 rs2) s) s rd (((s.xr rs1 + s.xr rs2).setWidth 32).signExtend _) ∧
    GivesX (exec (.subw rd rs1 rs2) s) s rd (((s.xr rs1 - s.xr rs2).setWidth 32).signExtend _) ∧
    GivesX (exec (.sllw rd rs1 rs2) s) s rd
      ((((s.xr rs1).setWidth 32) <<< ((s.xr rs2).toNat % 32)).signExtend _) ∧
    GivesX (exec (.srlw rd rs1 rs2) s) s rd
      ((((s.xr rs1).setWidth 32) >>> ((s.xr rs2).toNat % 32)).signExtend _) ∧
    GivesX (exec (.sraw rd rs1 rs2) s) s rd
      ((((s.xr rs1).setWidth 32).sshiftRight ((s.xr rs2).toNat % 32)).signExtend _)

/-- MUL, MULH, MULHSU, MULHU, DIV, DIVU, REM, REMU with HAS_M (rules R194, R531 to R538): division by zero gives all ones
and leaves the dividend as the remainder, and no division traps. -/
def Obligations.MultiplyDivide : Prop :=
  ∀ (rd rs1 rs2 : BitVec 5) (s : State), s.cfg.hasM = true →
    GivesX (exec (.mul rd rs1 rs2) s) s rd (s.xr rs1 * s.xr rs2) ∧
    GivesX (exec (.mulh rd rs1 rs2) s) s rd
      (BitVec.ofInt _ ((s.xr rs1).toInt * (s.xr rs2).toInt / (2 : Int) ^ s.cfg.xbits)) ∧
    GivesX (exec (.mulhsu rd rs1 rs2) s) s rd
      (BitVec.ofInt _ ((s.xr rs1).toInt * ((s.xr rs2).toNat : Int) / (2 : Int) ^ s.cfg.xbits)) ∧
    GivesX (exec (.mulhu rd rs1 rs2) s) s rd
      (BitVec.ofNat _ ((s.xr rs1).toNat * (s.xr rs2).toNat / 2 ^ s.cfg.xbits)) ∧
    GivesX (exec (.div rd rs1 rs2) s) s rd
      (if s.xr rs2 = 0 then BitVec.allOnes _ else (s.xr rs1).sdiv (s.xr rs2)) ∧
    GivesX (exec (.divu rd rs1 rs2) s) s rd
      (if s.xr rs2 = 0 then BitVec.allOnes _ else (s.xr rs1).udiv (s.xr rs2)) ∧
    GivesX (exec (.rem rd rs1 rs2) s) s rd (if s.xr rs2 = 0 then s.xr rs1 else (s.xr rs1).srem (s.xr rs2)) ∧
    GivesX (exec (.remu rd rs1 rs2) s) s rd (if s.xr rs2 = 0 then s.xr rs1 else (s.xr rs1).umod (s.xr rs2))

/-- MULW, DIVW, DIVUW, REMW, REMUW at XLEN = 64 with HAS_M (rules R539 to R543), on the low words. -/
def Obligations.MultiplyDivideWord : Prop :=
  ∀ (rd rs1 rs2 : BitVec 5) (s : State) (a b : BitVec 32), s.cfg.xlen = .rv64 → s.cfg.hasM = true →
    a = (s.xr rs1).setWidth 32 → b = (s.xr rs2).setWidth 32 →
    GivesX (exec (.mulw rd rs1 rs2) s) s rd ((a * b).signExtend _) ∧
    GivesX (exec (.divw rd rs1 rs2) s) s rd ((if b = 0 then BitVec.allOnes 32 else a.sdiv b).signExtend _) ∧
    GivesX (exec (.divuw rd rs1 rs2) s) s rd ((if b = 0 then BitVec.allOnes 32 else a.udiv b).signExtend _) ∧
    GivesX (exec (.remw rd rs1 rs2) s) s rd ((if b = 0 then a else a.srem b).signExtend _) ∧
    GivesX (exec (.remuw rd rs1 rs2) s) s rd ((if b = 0 then a else a.umod b).signExtend _)

/-- What the machine lacks is IllegalInstruction: the M instructions without HAS_M, the 64-bit instructions and conversions
at XLEN = 32, and the moves between the files of a format wider than XLEN (rules R194, R267, R383, R596). -/
def Obligations.AbsentInstructions : Prop :=
  ∀ (rd rs1 rs2 : BitVec 5) (imm : BitVec 12) (f : Fmt) (rm : Rm) (o : ROps) (m : MemOps) (p : FiOps) (s : State),
    (s.cfg.hasM = false → ∀ i ∈ [Instr.mul rd rs1 rs2, .mulh rd rs1 rs2, .mulhsu rd rs1 rs2, .mulhu rd rs1 rs2,
      .div rd rs1 rs2, .divu rd rs1 rs2, .rem rd rs1 rs2, .remu rd rs1 rs2, .mulw rd rs1 rs2, .divw rd rs1 rs2,
      .divuw rd rs1 rs2, .remw rd rs1 rs2, .remuw rd rs1 rs2, .svMul o, .svMulh o, .svMulhsu o, .svMulhu o, .svDiv o,
      .svDivu o, .svRem o, .svRemu o, .svMulw o, .svDivw o, .svDivuw o, .svRemw o, .svRemuw o], Illegal (exec i s) s i) ∧
    (s.cfg.xlen = .rv32 → ∀ i ∈ [Instr.ld rd rs1 imm, .lwu rd rs1 imm, .sd rd rs1 imm, .addiw rd rs1 imm,
      .slliw rd rs1 rs2, .srliw rd rs1 rs2, .sraiw rd rs1 rs2, .addw rd rs1 rs2, .subw rd rs1 rs2, .sllw rd rs1 rs2,
      .srlw rd rs1 rs2, .sraw rd rs1 rs2, .mulw rd rs1 rs2, .divw rd rs1 rs2, .divuw rd rs1 rs2, .remw rd rs1 rs2,
      .remuw rd rs1 rs2, .svLd m, .svLwu m, .svSd m, .fcvtLFmt f rm rd rs1, .fcvtLuFmt f rm rd rs1,
      .fcvtFmtL f rm rd rs1, .fcvtFmtLu f rm rd rs1, .svFcvtLFmt rm p, .svFcvtLuFmt rm p, .svFcvtFmtL rm p,
      .svFcvtFmtLu rm p], Illegal (exec i s) s i) ∧
    (s.cfg.xbits < f.width → ∀ i ∈ [Instr.fmvXFmt f rd rs1, .fmvFmtX f rd rs1], Illegal (exec i s) s i) ∧
    (s.cfg.xbits < p.fmt.width → ∀ i ∈ [Instr.svFmvXFmt p, .svFmvFmtX p], Illegal (exec i s) s i)

/-! ## Unprefixed loads and stores (rules R123, R124, R544 to R555, R590 to R595) -/

/-- LB, LH, LW, LBU, LHU, and at XLEN = 64 LD and LWU (rules R544 to R551). -/
def Obligations.IntegerLoads : Prop :=
  ∀ (rd rs1 : BitVec 5) (imm : BitVec 12) (s : State) (a : Nat), a = s.ea rs1 imm →
    (CanLoad s a 8 → GivesX (exec (.lb rd rs1 imm) s) s rd ((s.memGet a 8).signExtend _) ∧
      GivesX (exec (.lbu rd rs1 imm) s) s rd ((s.memGet a 8).zeroExtend _)) ∧
    (CanLoad s a 16 → GivesX (exec (.lh rd rs1 imm) s) s rd ((s.memGet a 16).signExtend _) ∧
      GivesX (exec (.lhu rd rs1 imm) s) s rd ((s.memGet a 16).zeroExtend _)) ∧
    (CanLoad s a 32 → GivesX (exec (.lw rd rs1 imm) s) s rd ((s.memGet a 32).signExtend _) ∧
      (s.cfg.xlen = .rv64 → GivesX (exec (.lwu rd rs1 imm) s) s rd ((s.memGet a 32).zeroExtend _))) ∧
    (CanLoad s a 64 → s.cfg.xlen = .rv64 →
      GivesX (exec (.ld rd rs1 imm) s) s rd ((s.memGet a 64).zeroExtend _))

/-- SB, SH, SW, and at XLEN = 64 SD (rules R544, R552 to R555): the low bits of x[rs2], and no other byte of memory. -/
def Obligations.IntegerStores : Prop :=
  ∀ (rs2 rs1 : BitVec 5) (imm : BitVec 12) (s : State) (a : Nat), a = s.ea rs1 imm →
    (CanStore s a 8 → GivesMem (exec (.sb rs2 rs1 imm) s) s a 8 ((s.xr rs2).setWidth 8)) ∧
    (CanStore s a 16 → GivesMem (exec (.sh rs2 rs1 imm) s) s a 16 ((s.xr rs2).setWidth 16)) ∧
    (CanStore s a 32 → GivesMem (exec (.sw rs2 rs1 imm) s) s a 32 ((s.xr rs2).setWidth 32)) ∧
    (CanStore s a 64 → s.cfg.xlen = .rv64 →
      GivesMem (exec (.sd rs2 rs1 imm) s) s a 64 ((s.xr rs2).setWidth 64))

/-- FLH, FLW, FLD, FLQ and FSH, FSW, FSD, FSQ, where FLEN holds the width (rules R122 to R124, R544, R590 to R595): a load
NaN-boxes the value and raises no flag, a store writes the low bits of the register without a box check. -/
def Obligations.FpLoadsStores : Prop :=
  ∀ (rd rs1 : BitVec 5) (imm : BitVec 12) (s : State) (a : Nat), a = s.ea rs1 imm →
    (CanLoad s a 16 → 16 ≤ s.cfg.fbits → GivesF (exec (.flh rd rs1 imm) s) s rd (box _ (s.memGet a 16)) 0) ∧
    (CanLoad s a 32 → 32 ≤ s.cfg.fbits → GivesF (exec (.flw rd rs1 imm) s) s rd (box _ (s.memGet a 32)) 0) ∧
    (CanLoad s a 64 → 64 ≤ s.cfg.fbits → GivesF (exec (.fld rd rs1 imm) s) s rd (box _ (s.memGet a 64)) 0) ∧
    (CanLoad s a 128 → 128 ≤ s.cfg.fbits → GivesF (exec (.flq rd rs1 imm) s) s rd (box _ (s.memGet a 128)) 0) ∧
    (CanStore s a 16 → 16 ≤ s.cfg.fbits → GivesMem (exec (.fsh rd rs1 imm) s) s a 16 ((s.fr rd).setWidth 16)) ∧
    (CanStore s a 32 → 32 ≤ s.cfg.fbits → GivesMem (exec (.fsw rd rs1 imm) s) s a 32 ((s.fr rd).setWidth 32)) ∧
    (CanStore s a 64 → 64 ≤ s.cfg.fbits → GivesMem (exec (.fsd rd rs1 imm) s) s a 64 ((s.fr rd).setWidth 64)) ∧
    (CanStore s a 128 → 128 ≤ s.cfg.fbits → GivesMem (exec (.fsq rd rs1 imm) s) s a 128 ((s.fr rd).setWidth 128))

/-- A refused unprefixed access raises its exception with the address and changes nothing else (rules R55, R58, R544, R383);
a store to the program text is given no meaning (rule R64). That the text is a list of ranges and that a refused access is
raised before the text is looked at are the model's choice (log entry 6). -/
def Obligations.RefusedAccesses : Prop :=
  ∀ (r rs1 : BitVec 5) (imm : BitVec 12) (s : State) (a : Nat) (e : Exc), a = s.ea rs1 imm →
    (∀ p ∈ [(Instr.lb r rs1 imm, 1), (.lbu r rs1 imm, 1), (.lh r rs1 imm, 2), (.lhu r rs1 imm, 2), (.lw r rs1 imm, 4)],
      s.checkAccess a p.2 .load = some e → Raises (exec p.1 s) s e a) ∧
    (s.cfg.xlen = .rv64 → ∀ p ∈ [(Instr.lwu r rs1 imm, 4), (.ld r rs1 imm, 8)],
      s.checkAccess a p.2 .load = some e → Raises (exec p.1 s) s e a) ∧
    (∀ p ∈ [(Instr.flh r rs1 imm, 2), (.flw r rs1 imm, 4), (.fld r rs1 imm, 8), (.flq r rs1 imm, 16)],
      8 * p.2 ≤ s.cfg.fbits → s.checkAccess a p.2 .load = some e → Raises (exec p.1 s) s e a) ∧
    (∀ p ∈ [(Instr.sb r rs1 imm, 1), (.sh r rs1 imm, 2), (.sw r rs1 imm, 4), (.sd r rs1 imm, 8), (.fsh r rs1 imm, 2),
        (.fsw r rs1 imm, 4), (.fsd r rs1 imm, 8), (.fsq r rs1 imm, 16)],
      (p.1 = .sd r rs1 imm → s.cfg.xlen = .rv64) → (p.1 = .fsh r rs1 imm → 16 ≤ s.cfg.fbits) →
      (p.1 = .fsw r rs1 imm → 32 ≤ s.cfg.fbits) → (p.1 = .fsd r rs1 imm → 64 ≤ s.cfg.fbits) →
      (p.1 = .fsq r rs1 imm → 128 ≤ s.cfg.fbits) →
      (s.checkAccess a p.2 .store = some e → Raises (exec p.1 s) s e a) ∧
      (s.checkAccess a p.2 .store = none → s.hitsText a p.2 = true → exec p.1 s = .fault (.storeToText a)))

/-! ## Unprefixed FP instructions (rules R360, R560 to R589) -/

/-- NaN-boxing: a narrow result fills the register with ones above it; a narrow operand is taken where the bits above it
are all ones and is the canonical NaN otherwise (rules R122, R360). -/
def Obligations.NanBoxing : Prop :=
  ∀ (f : Fmt) (flen : Nat) (v : BitVec f.width) (x : BitVec flen), f.width ≤ flen →
    (box flen v).extractLsb' 0 f.width = v ∧
    (box flen v).extractLsb' f.width (flen - f.width) = BitVec.allOnes _ ∧
    (x.extractLsb' f.width (flen - f.width) = BitVec.allOnes _ → unbox f x = x.extractLsb' 0 f.width) ∧
    (x.extractLsb' f.width (flen - f.width) ≠ BitVec.allOnes _ → unbox f x = Fp.canonicalNaN f)

/-- FADD, FSUB, FMUL, FDIV, FSQRT, FMADD, FMSUB, FNMSUB, FNMADD in every format that fits FLEN (rules R264, R265, R360, R561
to R565, R586 to R589). The numerics are those of the record in force, whichever it is (rule R261, log entry
13). -/
def Obligations.FpArithmetic : Prop :=
  ∀ (f : Fmt) (rm : Rm) (m : RoundMode) (rd rs1 rs2 rs3 : BitVec 5) (s : State) (a b c : BitVec f.width),
    f.width ≤ s.cfg.fbits → Rounds s rm m → a = unbox f (s.fr rs1) → b = unbox f (s.fr rs2) → c = unbox f (s.fr rs3) →
    GivesBoxed (exec (.faddFmt f rm rd rs1 rs2) s) s rd (s.num.add f m a b) ∧
    GivesBoxed (exec (.fsubFmt f rm rd rs1 rs2) s) s rd (s.num.sub f m a b) ∧
    GivesBoxed (exec (.fmulFmt f rm rd rs1 rs2) s) s rd (s.num.mul f m a b) ∧
    GivesBoxed (exec (.fdivFmt f rm rd rs1 rs2) s) s rd (s.num.div f m a b) ∧
    GivesBoxed (exec (.fsqrtFmt f rm rd rs1) s) s rd (s.num.sqrt f m a) ∧
    GivesBoxed (exec (.fmaddFmt f rm rd rs1 rs2 rs3) s) s rd (s.num.fma f m a b c) ∧
    GivesBoxed (exec (.fmsubFmt f rm rd rs1 rs2 rs3) s) s rd (s.num.fma f m a b (Fp.fpNeg c)) ∧
    GivesBoxed (exec (.fnmsubFmt f rm rd rs1 rs2 rs3) s) s rd (s.num.fma f m (Fp.fpNeg a) b c) ∧
    GivesBoxed (exec (.fnmaddFmt f rm rd rs1 rs2 rs3) s) s rd (s.num.fma f m (Fp.fpNeg a) b (Fp.fpNeg c))

/-- FSGNJ, FSGNJN, FSGNJX (the sign bit of the result, the other bits of a) and FMIN, FMAX (rules R272 to R276, R566 to
R570). -/
def Obligations.FpSelect : Prop :=
  ∀ (f : Fmt) (rd rs1 rs2 : BitVec 5) (s : State) (a b : BitVec f.width),
    f.width ≤ s.cfg.fbits → a = unbox f (s.fr rs1) → b = unbox f (s.fr rs2) →
    (∃ v : BitVec f.width, GivesF (exec (.fsgnjFmt f rd rs1 rs2) s) s rd (box _ v) 0 ∧ v.msb = b.msb ∧
      ∀ k < f.width - 1, v.getLsbD k = a.getLsbD k) ∧
    (∃ v : BitVec f.width, GivesF (exec (.fsgnjnFmt f rd rs1 rs2) s) s rd (box _ v) 0 ∧ v.msb = !b.msb ∧
      ∀ k < f.width - 1, v.getLsbD k = a.getLsbD k) ∧
    (∃ v : BitVec f.width, GivesF (exec (.fsgnjxFmt f rd rs1 rs2) s) s rd (box _ v) 0 ∧ v.msb = (a.msb ^^ b.msb) ∧
      ∀ k < f.width - 1, v.getLsbD k = a.getLsbD k) ∧
    GivesBoxed (exec (.fminFmt f rd rs1 rs2) s) s rd (s.num.min f a b) ∧
    GivesBoxed (exec (.fmaxFmt f rd rs1 rs2) s) s rd (s.num.max f a b)

/-- FEQ, FLT, FLE, FCLASS, and for a format that fits XLEN FMV.X.fmt and FMV.fmt.X (rules R292, R360, R571 to R573, R583 to
R585): FMV.X.fmt sign-extends and does not check the box. -/
def Obligations.FpToInteger : Prop :=
  ∀ (f : Fmt) (rd rs1 rs2 : BitVec 5) (s : State) (a b : BitVec f.width),
    f.width ≤ s.cfg.fbits → a = unbox f (s.fr rs1) → b = unbox f (s.fr rs2) →
    GivesXFlags (exec (.feqFmt f rd rs1 rs2) s) s rd (if (s.num.eq f a b).1 then 1 else 0) (s.num.eq f a b).2 ∧
    GivesXFlags (exec (.fltFmt f rd rs1 rs2) s) s rd (if (s.num.lt f a b).1 then 1 else 0) (s.num.lt f a b).2 ∧
    GivesXFlags (exec (.fleFmt f rd rs1 rs2) s) s rd (if (s.num.le f a b).1 then 1 else 0) (s.num.le f a b).2 ∧
    GivesXFlags (exec (.fclassFmt f rd rs1) s) s rd ((s.num.classify f a).setWidth _) 0 ∧
    (f.width ≤ s.cfg.xbits →
      GivesXFlags (exec (.fmvXFmt f rd rs1) s) s rd (((s.fr rs1).setWidth f.width).signExtend _) 0 ∧
      GivesF (exec (.fmvFmtX f rd rs1) s) s rd (box _ ((s.xr rs1).setWidth f.width)) 0)

/-- The conversions (rules R360, R574 to R582): the 64-bit ones at XLEN = 64, and between two different formats that both
fit FLEN. -/
def Obligations.FpConversions : Prop :=
  ∀ (f g : Fmt) (rm : Rm) (m : RoundMode) (rd rs1 : BitVec 5) (s : State) (a : BitVec f.width) (b : BitVec g.width),
    f.width ≤ s.cfg.fbits → Rounds s rm m → a = unbox f (s.fr rs1) → b = unbox g (s.fr rs1) →
    GivesXFlags (exec (.fcvtWFmt f rm rd rs1) s) s rd ((s.num.toInt f 32 true m a).1.signExtend _)
      (s.num.toInt f 32 true m a).2 ∧
    GivesXFlags (exec (.fcvtWuFmt f rm rd rs1) s) s rd ((s.num.toInt f 32 false m a).1.signExtend _)
      (s.num.toInt f 32 false m a).2 ∧
    GivesBoxed (exec (.fcvtFmtW f rm rd rs1) s) s rd (s.num.ofInt f 32 true m ((s.xr rs1).setWidth 32)) ∧
    GivesBoxed (exec (.fcvtFmtWu f rm rd rs1) s) s rd (s.num.ofInt f 32 false m ((s.xr rs1).setWidth 32)) ∧
    (s.cfg.xlen = .rv64 →
      GivesXFlags (exec (.fcvtLFmt f rm rd rs1) s) s rd ((s.num.toInt f 64 true m a).1.signExtend _)
        (s.num.toInt f 64 true m a).2 ∧
      GivesXFlags (exec (.fcvtLuFmt f rm rd rs1) s) s rd ((s.num.toInt f 64 false m a).1.signExtend _)
        (s.num.toInt f 64 false m a).2 ∧
      GivesBoxed (exec (.fcvtFmtL f rm rd rs1) s) s rd (s.num.ofInt f 64 true m ((s.xr rs1).setWidth 64)) ∧
      GivesBoxed (exec (.fcvtFmtLu f rm rd rs1) s) s rd (s.num.ofInt f 64 false m ((s.xr rs1).setWidth 64))) ∧
    (g.width ≤ s.cfg.fbits → g ≠ f → GivesBoxed (exec (.fcvtFmtFmt f g rm rd rs1) s) s rd (s.num.cvt f g m b))

/-- A format wider than FLEN, in every FP instruction, load and store, prefixed or not, and in either format of a conversion
between formats, and a reserved rounding mode in `frm`, in every instruction that has one, are IllegalInstruction, whatever
VL is; Vstart is unchanged (rules R166, R260, R265, R267, R289, R383, R560). -/
def Obligations.FpIllegal : Prop :=
  ∀ (f g : Fmt) (rm : Rm) (rd rs1 rs2 rs3 : BitVec 5) (imm : BitVec 12) (m : MemOps) (o : FrOps) (p : FiOps) (q : Fr4Ops)
    (s : State),
    (s.cfg.fbits < f.width → ∀ i ∈ [Instr.faddFmt f rm rd rs1 rs2, .fsubFmt f rm rd rs1 rs2, .fmulFmt f rm rd rs1 rs2,
      .fdivFmt f rm rd rs1 rs2, .fsqrtFmt f rm rd rs1, .fsgnjFmt f rd rs1 rs2, .fsgnjnFmt f rd rs1 rs2,
      .fsgnjxFmt f rd rs1 rs2, .fminFmt f rd rs1 rs2, .fmaxFmt f rd rs1 rs2, .feqFmt f rd rs1 rs2, .fltFmt f rd rs1 rs2,
      .fleFmt f rd rs1 rs2, .fcvtWFmt f rm rd rs1, .fcvtWuFmt f rm rd rs1, .fcvtLFmt f rm rd rs1, .fcvtLuFmt f rm rd rs1,
      .fcvtFmtW f rm rd rs1, .fcvtFmtWu f rm rd rs1, .fcvtFmtL f rm rd rs1, .fcvtFmtLu f rm rd rs1,
      .fcvtFmtFmt f g rm rd rs1, .fcvtFmtFmt g f rm rd rs1, .fmvXFmt f rd rs1, .fmvFmtX f rd rs1, .fclassFmt f rd rs1,
      .fmaddFmt f rm rd rs1 rs2 rs3, .fmsubFmt f rm rd rs1 rs2 rs3, .fnmsubFmt f rm rd rs1 rs2 rs3,
      .fnmaddFmt f rm rd rs1 rs2 rs3, .svFcvtFmtFmt f rm p], Illegal (exec i s) s i) ∧
    (∀ i ∈ [(Instr.flh rd rs1 imm, 16), (.flw rd rs1 imm, 32), (.fld rd rs1 imm, 64), (.flq rd rs1 imm, 128),
      (.fsh rd rs1 imm, 16), (.fsw rd rs1 imm, 32), (.fsd rd rs1 imm, 64), (.fsq rd rs1 imm, 128), (.svFlh m, 16),
      (.svFlw m, 32), (.svFld m, 64), (.svFlq m, 128), (.svFsh m, 16), (.svFsw m, 32), (.svFsd m, 64), (.svFsq m, 128)],
      s.cfg.fbits < i.2 → Illegal (exec i.1 s) s i.1) ∧
    (s.cfg.fbits < o.fmt.width → ∀ i ∈ [Instr.svFaddFmt rm o, .svFsubFmt rm o, .svFmulFmt rm o, .svFdivFmt rm o,
      .svFsgnjFmt o, .svFsgnjnFmt o, .svFsgnjxFmt o, .svFminFmt o, .svFmaxFmt o, .svFeqFmt o, .svFltFmt o, .svFleFmt o],
      Illegal (exec i s) s i) ∧
    (s.cfg.fbits < p.fmt.width → ∀ i ∈ [Instr.svFsqrtFmt rm p, .svFcvtWFmt rm p, .svFcvtWuFmt rm p, .svFcvtLFmt rm p,
      .svFcvtLuFmt rm p, .svFcvtFmtW rm p, .svFcvtFmtWu rm p, .svFcvtFmtL rm p, .svFcvtFmtLu rm p, .svFmvXFmt p,
      .svFmvFmtX p, .svFclassFmt p, .svFcvtFmtFmt f rm p], Illegal (exec i s) s i) ∧
    (s.cfg.fbits < q.fmt.width → ∀ i ∈ [Instr.svFmaddFmt rm q, .svFmsubFmt rm q, .svFnmsubFmt rm q, .svFnmaddFmt rm q],
      Illegal (exec i s) s i) ∧
    (4 < s.frm.toNat → ∀ i ∈ [Instr.faddFmt f .dyn rd rs1 rs2, .fsubFmt f .dyn rd rs1 rs2, .fmulFmt f .dyn rd rs1 rs2,
      .fdivFmt f .dyn rd rs1 rs2, .fsqrtFmt f .dyn rd rs1, .fcvtWFmt f .dyn rd rs1, .fcvtWuFmt f .dyn rd rs1,
      .fcvtLFmt f .dyn rd rs1, .fcvtLuFmt f .dyn rd rs1, .fcvtFmtW f .dyn rd rs1, .fcvtFmtWu f .dyn rd rs1,
      .fcvtFmtL f .dyn rd rs1, .fcvtFmtLu f .dyn rd rs1, .fcvtFmtFmt f g .dyn rd rs1, .fmaddFmt f .dyn rd rs1 rs2 rs3,
      .fmsubFmt f .dyn rd rs1 rs2 rs3, .fnmsubFmt f .dyn rd rs1 rs2 rs3, .fnmaddFmt f .dyn rd rs1 rs2 rs3,
      .svFaddFmt .dyn o, .svFsubFmt .dyn o, .svFmulFmt .dyn o, .svFdivFmt .dyn o, .svFsqrtFmt .dyn p, .svFcvtWFmt .dyn p,
      .svFcvtWuFmt .dyn p, .svFcvtLFmt .dyn p, .svFcvtLuFmt .dyn p, .svFcvtFmtW .dyn p, .svFcvtFmtWu .dyn p,
      .svFcvtFmtL .dyn p, .svFcvtFmtLu .dyn p, .svFcvtFmtFmt f .dyn p, .svFmaddFmt .dyn q, .svFmsubFmt .dyn q,
      .svFnmsubFmt .dyn q, .svFnmaddFmt .dyn q], Illegal (exec i s) s i)

/-! ## Control transfer and the system instructions -/

/-- JAL and JALR: x[rd] takes pc + 4, rs1 is read first, bit 0 of a JALR target is cleared (rules R340, R341). -/
def Obligations.Jumps : Prop :=
  ∀ (rd rs1 : BitVec 5) (off : BitVec 20) (imm : BitVec 12) (s : State),
    (∃ t, exec (.jal rd off) s = .next t ∧ t.pc.toNat = (s.pcx + (off ++ 0#1).signExtend s.cfg.xbits).toNat ∧
      t.getX s.cfg.xbits rd.toNat = (if rd = 0#5 then 0 else s.pcx + BitVec.ofNat _ 4) ∧ OnlyX s t rd.toNat) ∧
    (∃ t, exec (.jalr rd rs1 imm) s = .next t ∧ t.pc.toNat = (s.xr rs1 + s.imm imm).toNat / 2 * 2 ∧
      t.getX s.cfg.xbits rd.toNat = (if rd = 0#5 then 0 else s.pcx + BitVec.ofNat _ 4) ∧ OnlyX s t rd.toNat)

/-- The six conditional branches: the pc alone changes (rules R342 to R347, R349). -/
def Obligations.ConditionalBranches : Prop :=
  ∀ (rs1 rs2 : BitVec 5) (imm : BitVec 12) (s : State),
    Branches (exec (.beq rs1 rs2 imm) s) s (s.xr rs1 = s.xr rs2) imm ∧
    Branches (exec (.bne rs1 rs2 imm) s) s (s.xr rs1 ≠ s.xr rs2) imm ∧
    Branches (exec (.blt rs1 rs2 imm) s) s ((s.xr rs1).toInt < (s.xr rs2).toInt) imm ∧
    Branches (exec (.bge rs1 rs2 imm) s) s ((s.xr rs2).toInt ≤ (s.xr rs1).toInt) imm ∧
    Branches (exec (.bltu rs1 rs2 imm) s) s ((s.xr rs1).toNat < (s.xr rs2).toNat) imm ∧
    Branches (exec (.bgeu rs1 rs2 imm) s) s ((s.xr rs2).toNat ≤ (s.xr rs1).toNat) imm

/-- FENCE and FENCE.I change the pc only (rules R366, R367). -/
def Obligations.Fences : Prop :=
  ∀ (rd rs1 : BitVec 5) (imm : BitVec 12) (s : State),
    (∃ t, exec (.fence rd rs1 imm) s = .next t ∧ OnlyPc s t ∧ PastPc s t 4) ∧
    (∃ t, exec (.fenceI rd rs1 imm) s = .next t ∧ OnlyPc s t ∧ PastPc s t 4)

/-- ECALL and EBREAK under TRAP_MODEL = mmode enter the trap: a next state with the saved pc, the cause, the trap value, the
interrupt bits and the handler's pc; under stop the run ends with the state before them (rules R361, R362, R381, R383,
R390). The cause codes of all nine exceptions are those of the table of rule R383. What ECALL records is 0 or the pc by the model's own parameter, because rules R383 and R361 differ (log entry 10). -/
def Obligations.EnvironmentCalls : Prop :=
  (Exc.instructionAddressMisaligned.code = 0 ∧ Exc.instructionAccessFault.code = 1 ∧ Exc.illegalInstruction.code = 2 ∧
    Exc.breakpoint.code = 3 ∧ Exc.loadAddressMisaligned.code = 4 ∧ Exc.loadAccessFault.code = 5 ∧
    Exc.storeAddressMisaligned.code = 6 ∧ Exc.storeAccessFault.code = 7 ∧ Exc.environmentCall.code = 11) ∧
  ∀ (s : State) (info : Nat), info = (match s.cfg.ecallInfo with | .zero => 0 | .pc => s.pc.toNat) →
    (s.cfg.trapModel = .mmode →
      (∃ t, exec .ecall s = .next t ∧ Traps s t .environmentCall info) ∧
      (∃ t, exec .ebreak s = .next t ∧ Traps s t .breakpoint s.pc.toNat)) ∧
    (s.cfg.trapModel = .stop →
      exec .ecall s = .fault (.trapped .environmentCall info s) ∧
      exec .ebreak s = .fault (.trapped .breakpoint s.pc.toNat s))

/-- MRET under TRAP_MODEL = mmode: pc takes `mepc` (bit 0 reads 0), MIE takes MPIE, MPIE becomes 1, nothing else changes;
under stop it is IllegalInstruction (rules R363, R390). -/
def Obligations.TrapReturn : Prop :=
  ∀ s : State,
    (s.cfg.trapModel = .mmode →
      ∃ t, exec .mret s = .next t ∧
        t = { s with pc := BitVec.ofNat 64 (s.mepc.toNat / 2 * 2), mie := s.mpie, mpie := true }) ∧
    (s.cfg.trapModel = .stop → Illegal (exec .mret s) s .mret)

/-- After a trap from an even pc, MRET returns to the trapping instruction with the interrupt-enable bit it had; the integer
and FP registers, memory, VL, Vstart and the FP CSR are as the trap left them (rules R382, R390). -/
def Obligations.TrapThenReturn : Prop :=
  ∀ (s t : State) (e : Exc) (info : Nat), s.cfg.trapModel = .mmode → s.pc.toNat % 2 = 0 →
    raise e info s = .next t →
    ∃ u, exec .mret t = .next u ∧ u.pc = s.pc ∧ u.mie = s.mie ∧ u.xregs = s.xregs ∧ u.fregs = s.fregs ∧
      u.mem = s.mem ∧ u.vl = s.vl ∧ u.vstart = s.vstart ∧ u.fflags = s.fflags ∧ u.frm = s.frm

/-- The six CSR instructions: the CSR takes its implemented bits of the new value and x[rd] the old one; CSRRS, CSRRC,
CSRRSI and CSRRCI with a zero rs1 or uimm field only read (rules R368 to R374). That mtvec, mcause, mtval and mscratch keep
every bit written is the model's reading (log entry 8). -/
def Obligations.CsrAccess : Prop :=
  ∀ (rd r : BitVec 5) (a : BitVec 12) (c : Csr) (s : State) (old new : BitVec s.cfg.xbits), csrAt s.cfg a = some c →
    old = BitVec.ofNat _ (s.csrGet c) → CsrTakes s c new.toNat →
    (∀ i ∈ [Instr.csrrs rd 0 a, .csrrc rd 0 a, .csrrsi rd 0 a, .csrrci rd 0 a], GivesX (exec i s) s rd old) ∧
    (new = s.xr r → GivesCsr (exec (.csrrw rd r a) s) s rd c new) ∧
    (new = (old ||| s.xr r) → r ≠ 0 → GivesCsr (exec (.csrrs rd r a) s) s rd c new) ∧
    (new = (old &&& ~~~(s.xr r)) → r ≠ 0 → GivesCsr (exec (.csrrc rd r a) s) s rd c new) ∧
    (new = r.zeroExtend _ → GivesCsr (exec (.csrrwi rd r a) s) s rd c new) ∧
    (new = (old ||| r.zeroExtend _) → r ≠ 0 → GivesCsr (exec (.csrrsi rd r a) s) s rd c new) ∧
    (new = (old &&& ~~~(r.zeroExtend _)) → r ≠ 0 → GivesCsr (exec (.csrrci rd r a) s) s rd c new)

/-- A CSR instruction that names no CSR of the machine, or that would write VL above XLEN or Vstart of XLEN or more, is
given no meaning (rules R33, R368). CSRRWI writes at most 31 and never meets the second case. -/
def Obligations.CsrFaults : Prop :=
  ∀ (rd r : BitVec 5) (a : BitVec 12) (s : State),
    (csrAt s.cfg a = none → ∀ i ∈ [Instr.csrrw rd r a, .csrrs rd r a, .csrrc rd r a, .csrrwi rd r a, .csrrsi rd r a,
      .csrrci rd r a], exec i s = .fault (.unmodelledCsr a)) ∧
    ∀ (c : Csr) (old new : BitVec s.cfg.xbits), csrAt s.cfg a = some c → old = BitVec.ofNat _ (s.csrGet c) →
      ((c = .vl ∧ s.cfg.xbits < new.toNat) ∨ (c = .vstart ∧ s.cfg.xbits ≤ new.toNat)) →
      (new = s.xr r → exec (.csrrw rd r a) s = .fault (.illegalCsrValue c new.toNat)) ∧
      (new = (old ||| s.xr r) → r ≠ 0 → exec (.csrrs rd r a) s = .fault (.illegalCsrValue c new.toNat)) ∧
      (new = (old &&& ~~~(s.xr r)) → r ≠ 0 → exec (.csrrc rd r a) s = .fault (.illegalCsrValue c new.toNat)) ∧
      (new = (old ||| r.zeroExtend _) → r ≠ 0 → exec (.csrrsi rd r a) s = .fault (.illegalCsrValue c new.toNat)) ∧
      (new = (old &&& ~~~(r.zeroExtend _)) → r ≠ 0 → exec (.csrrci rd r a) s = .fault (.illegalCsrValue c new.toNat))

/-- Where the CSRs stand and what each reads as (rules R32, R38, R368, R390): of `mstatus` only bits 3 (MIE) and 7 (MPIE)
are not 0, bit 0 of `mepc` reads 0, and every other CSR reads the value it holds. The addresses of VL and Vstart are
parameters, taken to differ from each other and from the others. That mtvec, mcause, mtval and mscratch show every bit is
the model's reading (log entry 8). -/
def Obligations.CsrMap : Prop :=
  ∀ s : State, s.cfg.csrVl ≠ s.cfg.csrVstart →
    (∀ a ∈ [0x001#12, 0x002#12, 0x003#12, 0x300#12, 0x305#12, 0x340#12, 0x341#12, 0x342#12, 0x343#12],
      s.cfg.csrVl ≠ a ∧ s.cfg.csrVstart ≠ a) →
    csrAt s.cfg s.cfg.csrVl = some .vl ∧ csrAt s.cfg s.cfg.csrVstart = some .vstart ∧
    s.csrGet .vl = s.vl ∧ s.csrGet .vstart = s.vstart ∧
    (s.cfg.flen ≠ .absent → csrAt s.cfg 0x001#12 = some .fflags ∧ csrAt s.cfg 0x002#12 = some .frm ∧
      csrAt s.cfg 0x003#12 = some .fcsr ∧ s.csrGet .fflags = s.fflags.toNat ∧ s.csrGet .frm = s.frm.toNat ∧
      s.csrGet .fcsr = s.frm.toNat * 32 + s.fflags.toNat) ∧
    (s.cfg.trapModel = .mmode → csrAt s.cfg 0x300#12 = some .mstatus ∧ csrAt s.cfg 0x305#12 = some .mtvec ∧
      csrAt s.cfg 0x340#12 = some .mscratch ∧ csrAt s.cfg 0x341#12 = some .mepc ∧
      csrAt s.cfg 0x342#12 = some .mcause ∧ csrAt s.cfg 0x343#12 = some .mtval ∧
      (s.csrGet .mstatus).testBit 3 = s.mie ∧ (s.csrGet .mstatus).testBit 7 = s.mpie ∧
      (∀ k, k ≠ 3 → k ≠ 7 → (s.csrGet .mstatus).testBit k = false) ∧
      s.csrGet .mtvec = s.mtvec.toNat ∧ s.csrGet .mscratch = s.mscratch.toNat ∧
      s.csrGet .mepc = s.mepc.toNat / 2 * 2 ∧ s.csrGet .mcause = s.mcause.toNat ∧ s.csrGet .mtval = s.mtval.toNat)

/-- SETVL with imm at most XLEN: VL and x[rd] take the new length, imm where rs1 is x0, and otherwise by the requested
length: XLEN (or imm, by SETVL_STEP3) above twice imm, half of it above imm, itself up to imm; nothing else changes. With
imm above XLEN it is IllegalInstruction with the instruction's word (rules R311, R312, R314, R315, R316; the word, log
entry 9). -/
def Obligations.SetvlResult : Prop :=
  ∀ (rd rs1 : BitVec 5) (imm insn : Nat) (s : State) (avl n : Nat), avl = (s.xr rs1).toNat →
    n = (if rs1 = 0#5 then imm
      else if 2 * imm < avl then (match s.cfg.setvlStep3 with | .xlen => s.cfg.xbits | .imm => imm)
      else if imm < avl then avl / 2 else avl) →
    (imm ≤ s.cfg.xbits → ∃ t, exec (.setvl rd rs1 ⟨imm, insn⟩) s = .next t ∧
      t = { s with pc := t.pc, xregs := t.xregs, vl := n } ∧
      t.getX s.cfg.xbits rd.toNat = (if rd = 0#5 then 0 else BitVec.ofNat _ n) ∧
      (∀ q, q ≠ rd.toNat → t.getX s.cfg.xbits q = s.getX s.cfg.xbits q) ∧ PastPc s t s.cfg.setvlEnc.len) ∧
    (s.cfg.xbits < imm → Raises (exec (.setvl rd rs1 ⟨imm, insn⟩) s) s .illegalInstruction insn)

/-- VL is always legal after SETVL: 0 <= VL <= XLEN on every path (rule R313). -/
def Obligations.SetvlLegal : Prop :=
  ∀ (rd rs1 : BitVec 5) (imm insn : Nat) (s t : State), imm ≤ s.cfg.xbits →
    exec (.setvl rd rs1 ⟨imm, insn⟩) s = .next t → t.vl ≤ s.cfg.xbits

/-! ## Prefixed instructions (rules R130 to R149, R160 to R299) -/

/-- ADD, SUB, SLL, SLT, SLTU, XOR, SRL, SRA, OR, AND, prefixed, and their OP-32 forms (rules R190 to R205, R214 to R218):
element-wise at the width of the element type; the OP-32 forms have the functions of the OP forms. -/
def Obligations.SvIntegerArithmetic : Prop :=
  ∀ (o : ROps) (s : State), o.Fits s →
    o.Runs (exec (.svAdd o) s) s (fun a b => a + b) ∧ o.Runs (exec (.svAddw o) s) s (fun a b => a + b) ∧
    o.Runs (exec (.svSub o) s) s (fun a b => a - b) ∧ o.Runs (exec (.svSubw o) s) s (fun a b => a - b) ∧
    o.Runs (exec (.svSll o) s) s (fun a b => a <<< (b.toNat % o.vitp.itype.width s.cfg.xbits)) ∧
    o.Runs (exec (.svSllw o) s) s (fun a b => a <<< (b.toNat % o.vitp.itype.width s.cfg.xbits)) ∧
    o.Runs (exec (.svSlt o) s) s (fun a b => if a.toInt < b.toInt then 1 else 0) ∧
    o.Runs (exec (.svSltu o) s) s (fun a b => if a.toNat < b.toNat then 1 else 0) ∧
    o.Runs (exec (.svXor o) s) s (fun a b => a ^^^ b) ∧
    o.Runs (exec (.svSrl o) s) s (fun a b => a >>> (b.toNat % o.vitp.itype.width s.cfg.xbits)) ∧
    o.Runs (exec (.svSrlw o) s) s (fun a b => a >>> (b.toNat % o.vitp.itype.width s.cfg.xbits)) ∧
    o.Runs (exec (.svSra o) s) s (fun a b => a.sshiftRight (b.toNat % o.vitp.itype.width s.cfg.xbits)) ∧
    o.Runs (exec (.svSraw o) s) s (fun a b => a.sshiftRight (b.toNat % o.vitp.itype.width s.cfg.xbits)) ∧
    o.Runs (exec (.svOr o) s) s (fun a b => a ||| b) ∧ o.Runs (exec (.svAnd o) s) s (fun a b => a &&& b)

/-- MUL, MULH, MULHSU, MULHU, DIV, DIVU, REM, REMU, prefixed, and the OP-32 forms, with HAS_M (rules R194, R206 to R213, R219
to R223). -/
def Obligations.SvMultiplyDivide : Prop :=
  ∀ (o : ROps) (s : State) (w : Nat), w = o.vitp.itype.width s.cfg.xbits → s.cfg.hasM = true → o.Fits s →
    o.Runs (exec (.svMul o) s) s (fun a b => a * b) ∧ o.Runs (exec (.svMulw o) s) s (fun a b => a * b) ∧
    o.Runs (exec (.svMulh o) s) s (fun a b => BitVec.ofInt _ (a.toInt * b.toInt / (2 : Int) ^ w)) ∧
    o.Runs (exec (.svMulhsu o) s) s (fun a b => BitVec.ofInt _ (a.toInt * (b.toNat : Int) / (2 : Int) ^ w)) ∧
    o.Runs (exec (.svMulhu o) s) s (fun a b => BitVec.ofNat _ (a.toNat * b.toNat / 2 ^ w)) ∧
    o.Runs (exec (.svDiv o) s) s (fun a b => if b = 0 then BitVec.allOnes _ else a.sdiv b) ∧
    o.Runs (exec (.svDivw o) s) s (fun a b => if b = 0 then BitVec.allOnes _ else a.sdiv b) ∧
    o.Runs (exec (.svDivu o) s) s (fun a b => if b = 0 then BitVec.allOnes _ else a.udiv b) ∧
    o.Runs (exec (.svDivuw o) s) s (fun a b => if b = 0 then BitVec.allOnes _ else a.udiv b) ∧
    o.Runs (exec (.svRem o) s) s (fun a b => if b = 0 then a else a.srem b) ∧
    o.Runs (exec (.svRemw o) s) s (fun a b => if b = 0 then a else a.srem b) ∧
    o.Runs (exec (.svRemu o) s) s (fun a b => if b = 0 then a else a.umod b) ∧
    o.Runs (exec (.svRemuw o) s) s (fun a b => if b = 0 then a else a.umod b)

/-- ADDI, SLTI, SLTIU, XORI, ORI, ANDI, ADDIW, LUI and AUIPC, prefixed (rules R230 to R239, R243, R247 to R249): pc is the
address of the whole 48-bit instruction. -/
def Obligations.SvImmediate : Prop :=
  (∀ (o : IOps) (s : State), o.Fits s →
    o.Runs (exec (.svAddi o) s) s (fun a => a + o.m s) ∧ o.Runs (exec (.svAddiw o) s) s (fun a => a + o.m s) ∧
    o.Runs (exec (.svSlti o) s) s (fun a => if a.toInt < (o.m s).toInt then 1 else 0) ∧
    o.Runs (exec (.svSltiu o) s) s (fun a => if a.toNat < (o.m s).toNat then 1 else 0) ∧
    o.Runs (exec (.svXori o) s) s (fun a => a ^^^ o.m s) ∧ o.Runs (exec (.svOri o) s) s (fun a => a ||| o.m s) ∧
    o.Runs (exec (.svAndi o) s) s (fun a => a &&& o.m s)) ∧
  (∀ (o : UOps) (s : State), o.Fits s →
    o.Runs (exec (.svLui o) s) s ((o.imm ++ 0#12).signExtend _) ∧
    o.Runs (exec (.svAuipc o) s) s (s.pcx + (o.imm ++ 0#12).signExtend _))

/-- SLLI, SRLI, SRAI, SLLIW, SRLIW, SRAIW, prefixed: a shift amount below the element width shifts, any other is
IllegalInstruction whatever VL is (rules R233, R240 to R242, R244 to R246). -/
def Obligations.SvShiftImmediate : Prop :=
  ∀ (o : ShOps) (s : State),
    (o.shamt.toNat < o.vitp.itype.width s.cfg.xbits → o.Fits s →
      o.Runs (exec (.svSlli o) s) s (fun a => a <<< o.shamt.toNat) ∧
      o.Runs (exec (.svSlliw o) s) s (fun a => a <<< o.shamt.toNat) ∧
      o.Runs (exec (.svSrli o) s) s (fun a => a >>> o.shamt.toNat) ∧
      o.Runs (exec (.svSrliw o) s) s (fun a => a >>> o.shamt.toNat) ∧
      o.Runs (exec (.svSrai o) s) s (fun a => a.sshiftRight o.shamt.toNat) ∧
      o.Runs (exec (.svSraiw o) s) s (fun a => a.sshiftRight o.shamt.toNat)) ∧
    (o.vitp.itype.width s.cfg.xbits ≤ o.shamt.toNat →
      ∀ i ∈ [Instr.svSlli o, .svSrli o, .svSrai o, .svSlliw o, .svSrliw o, .svSraiw o], Illegal (exec i s) s i)

/-- FADD, FSUB, FMUL, FDIV, FSGNJ, FSGNJN, FSGNJX, FMIN, FMAX, FEQ, FLT, FLE, prefixed (rules R260 to R279): no NaN-boxing;
comparisons write XLEN-bit integer elements. The numerics are those of the record in
force (rule R261, log entry 13). -/
def Obligations.SvFpTwoSource : Prop :=
  ∀ (rm : Rm) (m : RoundMode) (o : FrOps) (s : State), o.fmt.width ≤ s.cfg.fbits →
    (o.Fits s .fp o.fmt.width → Rounds s rm m →
      o.Runs (exec (.svFaddFmt rm o) s) s .fp o.fmt.width (s.num.add o.fmt m) ∧
      o.Runs (exec (.svFsubFmt rm o) s) s .fp o.fmt.width (s.num.sub o.fmt m) ∧
      o.Runs (exec (.svFmulFmt rm o) s) s .fp o.fmt.width (s.num.mul o.fmt m) ∧
      o.Runs (exec (.svFdivFmt rm o) s) s .fp o.fmt.width (s.num.div o.fmt m)) ∧
    (o.Fits s .fp o.fmt.width →
      o.Runs (exec (.svFsgnjFmt o) s) s .fp o.fmt.width (fun a b => (Fp.sgnj a b, 0)) ∧
      o.Runs (exec (.svFsgnjnFmt o) s) s .fp o.fmt.width (fun a b => (Fp.sgnjn a b, 0)) ∧
      o.Runs (exec (.svFsgnjxFmt o) s) s .fp o.fmt.width (fun a b => (Fp.sgnjx a b, 0)) ∧
      o.Runs (exec (.svFminFmt o) s) s .fp o.fmt.width (s.num.min o.fmt) ∧
      o.Runs (exec (.svFmaxFmt o) s) s .fp o.fmt.width (s.num.max o.fmt)) ∧
    (o.Fits s .x s.cfg.xbits →
      o.Runs (exec (.svFeqFmt o) s) s .x s.cfg.xbits
        (fun a b => (if (s.num.eq o.fmt a b).1 then 1 else 0, (s.num.eq o.fmt a b).2)) ∧
      o.Runs (exec (.svFltFmt o) s) s .x s.cfg.xbits
        (fun a b => (if (s.num.lt o.fmt a b).1 then 1 else 0, (s.num.lt o.fmt a b).2)) ∧
      o.Runs (exec (.svFleFmt o) s) s .x s.cfg.xbits
        (fun a b => (if (s.num.le o.fmt a b).1 then 1 else 0, (s.num.le o.fmt a b).2)))

/-- FSQRT, the conversions, FMV and FCLASS, prefixed (rules R260 to R267, R280 to R293): integer elements of 32, 64, w or XLEN
bits by the instruction (rule R262), never sign-extended. The numerics are those of the record in
force (rule R261, log entry 13). -/
def Obligations.SvFpOneSource : Prop :=
  ∀ (src : Fmt) (rm : Rm) (m : RoundMode) (o : FiOps) (s : State), o.fmt.width ≤ s.cfg.fbits → Rounds s rm m →
    (o.Fits s .fp o.fmt.width .fp o.fmt.width →
      o.Runs (exec (.svFsqrtFmt rm o) s) s .fp o.fmt.width .fp o.fmt.width (s.num.sqrt o.fmt m)) ∧
    (o.Fits s .x 32 .fp o.fmt.width →
      o.Runs (exec (.svFcvtWFmt rm o) s) s .x 32 .fp o.fmt.width (s.num.toInt o.fmt 32 true m) ∧
      o.Runs (exec (.svFcvtWuFmt rm o) s) s .x 32 .fp o.fmt.width (s.num.toInt o.fmt 32 false m)) ∧
    (o.Fits s .x 64 .fp o.fmt.width → s.cfg.xlen = .rv64 →
      o.Runs (exec (.svFcvtLFmt rm o) s) s .x 64 .fp o.fmt.width (s.num.toInt o.fmt 64 true m) ∧
      o.Runs (exec (.svFcvtLuFmt rm o) s) s .x 64 .fp o.fmt.width (s.num.toInt o.fmt 64 false m)) ∧
    (o.Fits s .fp o.fmt.width .x 32 →
      o.Runs (exec (.svFcvtFmtW rm o) s) s .fp o.fmt.width .x 32 (s.num.ofInt o.fmt 32 true m) ∧
      o.Runs (exec (.svFcvtFmtWu rm o) s) s .fp o.fmt.width .x 32 (s.num.ofInt o.fmt 32 false m)) ∧
    (o.Fits s .fp o.fmt.width .x 64 → s.cfg.xlen = .rv64 →
      o.Runs (exec (.svFcvtFmtL rm o) s) s .fp o.fmt.width .x 64 (s.num.ofInt o.fmt 64 true m) ∧
      o.Runs (exec (.svFcvtFmtLu rm o) s) s .fp o.fmt.width .x 64 (s.num.ofInt o.fmt 64 false m)) ∧
    (o.Fits s .fp o.fmt.width .fp src.width → src.width ≤ s.cfg.fbits → src ≠ o.fmt →
      o.Runs (exec (.svFcvtFmtFmt src rm o) s) s .fp o.fmt.width .fp src.width (s.num.cvt o.fmt src m)) ∧
    (o.Fits s .x o.fmt.width .fp o.fmt.width → o.fmt.width ≤ s.cfg.xbits →
      o.Runs (exec (.svFmvXFmt o) s) s .x o.fmt.width .fp o.fmt.width (fun a => (a, 0))) ∧
    (o.Fits s .fp o.fmt.width .x o.fmt.width → o.fmt.width ≤ s.cfg.xbits →
      o.Runs (exec (.svFmvFmtX o) s) s .fp o.fmt.width .x o.fmt.width (fun a => (a, 0))) ∧
    (o.Fits s .x s.cfg.xbits .fp o.fmt.width →
      o.Runs (exec (.svFclassFmt o) s) s .x s.cfg.xbits .fp o.fmt.width
        (fun a => ((s.num.classify o.fmt a).setWidth _, 0)))

/-- FMADD, FMSUB, FNMSUB, FNMADD, prefixed (rules R264 to R266, R294 to R298): one rounding; rs1 and rd take the class of
rs2 or rs3. The numerics are those of the record in
force (rule R261, log entry 13). -/
def Obligations.SvFpFused : Prop :=
  ∀ (rm : Rm) (m : RoundMode) (o : Fr4Ops) (s : State), o.fmt.width ≤ s.cfg.fbits → Rounds s rm m → o.Fits s →
    o.Runs (exec (.svFmaddFmt rm o) s) s (fun a b c => s.num.fma o.fmt m a b c) ∧
    o.Runs (exec (.svFmsubFmt rm o) s) s (fun a b c => s.num.fma o.fmt m a b (Fp.fpNeg c)) ∧
    o.Runs (exec (.svFnmsubFmt rm o) s) s (fun a b c => s.num.fma o.fmt m (Fp.fpNeg a) b c) ∧
    o.Runs (exec (.svFnmaddFmt rm o) s) s (fun a b c => s.num.fma o.fmt m (Fp.fpNeg a) b (Fp.fpNeg c))

/-- LB, LH, LW, LD, LBU, LHU, LWU, FLH, FLW, FLD, FLQ, prefixed (rules R160 to R164, R167 to R177): contiguous, gathered and
strided; a load whose enabled indices pass their checks completes, each index loading its elements unextended. The addresses
are those of the table of rule R163. -/
def Obligations.SvLoads : Prop :=
  (∀ (w : Nat) (o : MemOps) (s u : State) (i j : Nat), AddressTable w o s u i j) ∧
  ∀ f ∈ svLoadForms, ∀ (o : MemOps) (s : State), f.Here s →
    (∀ k < indexCount (memIsVec s) s, LoadReady f.file f.w o s k) →
    OpdFits (dataOpd f.file o s) f.w o.vtp.svlen.count (memIsVec s) o.vtp.pred s →
    ∃ t, exec (f.ctor o) s = .next t ∧ RunsOver (memIsVec s) o.vtp.pred (LoadsElems f.file f.w o s) s t

/-- SB, SH, SW, SD, FSH, FSW, FSD, FSQ, prefixed (rules R160 to R165, R178 to R185): contiguous, scattered and strided; each
enabled index stores its elements in ascending order, and no other byte of memory changes. The addresses are those of the
table of rule R163, an address vector read as it was before the store. -/
def Obligations.SvStores : Prop :=
  (∀ (w : Nat) (o : MemOps) (s : State) (i j : Nat), AddressTable w o s s i j) ∧
  ∀ f ∈ svStoreForms, ∀ (o : MemOps) (s : State), f.Here s →
    (∀ k < indexCount (memIsVec s) s, StoreReady f.w o s k) →
    OpdFits (dataOpd f.file o s) f.w o.vtp.svlen.count (memIsVec s) o.vtp.pred s →
    ∃ t, exec (f.ctor o) s = .next t ∧ RunsOver (memIsVec s) o.vtp.pred (StoresElems f.file f.w o s) s t

/-- A prefixed load or store whose first refused element lies at index number k raises the exception with the element's
address; the enabled indices below it stay committed, the failing one commits nothing, and a vector instruction leaves the
failing index in Vstart (rules R144, R149, R166, R381). A prefixed store whose accesses pass but that hits the program text
is given no meaning (rules R64, R165). That the text is a list of ranges (log entry 6) and that it is looked at after every
access of the sub-vector has been checked (log entry 21) are the model's reading. -/
def Obligations.SvTrapAtIndex : Prop :=
  ∀ (o : MemOps) (s : State) (k j : Nat) (e : Exc), k < indexCount (memIsVec s) s →
    enabled o.vtp.pred s (firstIndex (memIsVec s) s + k) = true → AddrFits o s (firstIndex (memIsVec s) s + k) →
    (∀ f ∈ svLoadForms, f.Here s → (∀ q < k, LoadReady f.file f.w o s q) →
      OpdFits (dataOpd f.file o s) f.w o.vtp.svlen.count (memIsVec s) o.vtp.pred s →
      RefusedAt s .load f.w (elemAddr f.w o s (loadBefore f.file f.w o s k) (firstIndex (memIsVec s) s + k))
        o.vtp.svlen.count j e →
      ∃ u, Chain (memIsVec s) o.vtp.pred (LoadsElems f.file f.w o s) k s u ∧
        Raises (exec (f.ctor o) s) { u with vstart := if memIsVec s then s.vstart + k else s.vstart } e
          (elemAddr f.w o s (loadBefore f.file f.w o s k) (firstIndex (memIsVec s) s + k) j)) ∧
    (∀ f ∈ svStoreForms, f.Here s → (∀ q < k, StoreReady f.w o s q) →
      OpdFits (dataOpd f.file o s) f.w o.vtp.svlen.count (memIsVec s) o.vtp.pred s →
      RefusedAt s .store f.w (elemAddr f.w o s s (firstIndex (memIsVec s) s + k)) o.vtp.svlen.count j e →
      ∃ u, Chain (memIsVec s) o.vtp.pred (StoresElems f.file f.w o s) k s u ∧
        Raises (exec (f.ctor o) s) { u with vstart := if memIsVec s then s.vstart + k else s.vstart } e
          (elemAddr f.w o s s (firstIndex (memIsVec s) s + k) j)) ∧
    (∀ f ∈ svStoreForms, f.Here s → (∀ q < k, StoreReady f.w o s q) →
      OpdFits (dataOpd f.file o s) f.w o.vtp.svlen.count (memIsVec s) o.vtp.pred s →
      (∀ q < o.vtp.svlen.count,
        s.checkAccess (elemAddr f.w o s s (firstIndex (memIsVec s) s + k) q) (f.w / 8) .store = none) →
      HitsTextAt f.w o s k j →
      exec (f.ctor o) s = .fault (.storeToText (elemAddr f.w o s s (firstIndex (memIsVec s) s + k) j)))

/-- Resumption: a prefixed store that traps, and is executed again from the state the trap left once the platform admits
the access, ends in the state in which it would have ended had the access been admitted from the start (rules R145, R382,
R387). Under TRAP_MODEL = mmode the trap is entered and MRET returns to the store; what then differs is what the trap wrote:
mepc, mcause, mtval and MPIE (rule R390). -/
def Obligations.SvStoreResumes : Prop :=
  ∀ f ∈ svStoreForms, ∀ (o : MemOps) (s u t : State) (e : Exc) (info : Nat) (backed : List Region),
    s.cfg.trapModel = .stop → exec (f.ctor o) s = .fault (.trapped e info u) →
    exec (f.ctor o) { s with cfg := { s.cfg with backed := backed } } = .next t →
    exec (f.ctor o) { u with cfg := { s.cfg with backed := backed } } = .next t ∧
    (s.pc.toNat % 2 = 0 → ∀ (m : State) (c d : Config), c = { s.cfg with trapModel := .mmode } →
      d = { c with backed := backed } → m = { s with cfg := c } →
      ∃ v r, exec (f.ctor o) m = .next v ∧ exec .mret v = .next r ∧
        exec (f.ctor o) { r with cfg := d } =
          .next { t with cfg := d, mepc := v.mepc, mcause := v.mcause, mtval := v.mtval, mpie := true })

/-- An operand that runs past register 127 at an enabled index is the model fault RegisterOverrun (rules R29, R384): in
every prefixed computation the machine has, and in a prefixed load or store at the first index whose address vector
overruns, or whose accesses pass and whose data operand overruns. -/
def Obligations.RegisterOverrun : Prop :=
  (∀ (i : Instr) (s : State) (h : Shape), i.shape s = some h → h.legal = true → ¬h.Fits s →
    ∃ file r, exec i s = .fault (.registerOverrun file r)) ∧
  (∀ (o : MemOps) (s : State) (k : Nat), k < indexCount (memIsVec s) s →
    enabled o.vtp.pred s (firstIndex (memIsVec s) s + k) = true →
    (∀ f ∈ svLoadForms, f.Here s → (∀ q < k, LoadReady f.file f.w o s q) →
      (¬AddrFits o s (firstIndex (memIsVec s) s + k) ∨
        (LoadReady f.file f.w o s k ∧ DataOverruns f.file f.w o s k)) →
      ∃ file r, exec (f.ctor o) s = .fault (.registerOverrun file r)) ∧
    (∀ f ∈ svStoreForms, f.Here s → (∀ q < k, StoreReady f.w o s q) →
      (¬AddrFits o s (firstIndex (memIsVec s) s + k) ∨ (StoreReady f.w o s k ∧ DataOverruns f.file f.w o s k)) →
      ∃ file r, exec (f.ctor o) s = .fault (.registerOverrun file r)))

/-- A vector instruction with Vstart at or above VL (VL = 0 among them) performs no sub-vector operation: it clears Vstart
and moves past itself; nothing else changes (rules R143, R146, R147). This holds of every prefixed computation and of every
prefixed load and store under LDST_CLASS = vector_data. One that the machine does not have is IllegalInstruction, whatever
VL is. -/
def Obligations.EmptyVector : Prop :=
  ∀ s : State,
    (∀ (i : Instr) (h : Shape), i.shape s = some h →
      (h.legal = false → Illegal (exec i s) s i) ∧
      (s.vl ≤ s.vstart → h.legal = true → h.isVec = true →
        ∃ t, exec i s = .next t ∧ t = { s with pc := t.pc, vstart := 0 } ∧ PastPc s t 6)) ∧
    (s.vl ≤ s.vstart → ∀ o : MemOps, s.cfg.ldstClass = .vectorData → ∀ f ∈ svLoadForms ++ svStoreForms, f.Here s →
      ∃ t, exec (f.ctor o) s = .next t ∧ t = { s with pc := t.pc, vstart := 0 } ∧ PastPc s t 6)

/-- A scalar prefixed instruction neither reads nor writes VL and Vstart (rules R132, R143, R149): every prefixed
computation none of whose operands is classed V, and every prefixed load and store under LDST_CLASS = literal. -/
def Obligations.ScalarPrefixed : Prop :=
  ∀ (i : Instr) (s t : State) (v k : Nat),
    (∃ h, i.shape s = some h ∧ h.isVec = false) ∨
      (s.cfg.ldstClass = .literal ∧ ∃ f ∈ svLoadForms ++ svStoreForms, ∃ o, i = f.ctor o) →
    exec i s = .next t → exec i { s with vl := v, vstart := k } = .next { t with vl := v, vstart := k }

/-! ## Rules of the whole machine -/

/-- An unprefixed instruction other than SETVL and the CSR instructions neither reads nor writes VL and Vstart (rules R330,
R349). -/
def Obligations.UnprefixedIgnoreVector : Prop :=
  ∀ (i : Instr) (s t : State) (v k : Nat), ¬Prefixed i → ¬SetvlInstr i → ¬CsrInstr i → exec i s = .next t →
    exec i { s with vl := v, vstart := k } = .next { t with vl := v, vstart := k }

/-- Only stores change memory (rules R52, R56). -/
def Obligations.OnlyStoresWriteMemory : Prop :=
  ∀ (i : Instr) (s t : State), ¬StoreInstr i → exec i s = .next t → t.mem = s.mem

/-- Only CSR instructions clear an accrued FP flag or change the rounding mode, the trap vector or the scratch register; and
no instruction changes a parameter (rules R6, R38, R264, R390). -/
def Obligations.OnlyCsrInstructions : Prop :=
  ∀ (i : Instr) (s t : State), exec i s = .next t → t.cfg = s.cfg ∧
    (¬CsrInstr i → t.fflags ||| s.fflags = t.fflags ∧ t.frm = s.frm ∧ t.mtvec = s.mtvec ∧ t.mscratch = s.mscratch)
end

