-- ==== Sys2Proof/Laws/ByteMap.lean ====
section
/-! SUPPORT. What byte maps do: reading after writing, the canonical form, and little-endian groups of bytes. -/

namespace Sys2Proof.Machine

/-! ## One byte -/

theorem ByteMap.read_of_absent (m : ByteMap) (a : Nat) (h : ∀ c ∈ m, c.1 ≠ a) : ByteMap.read m a = 0#8 := by
  induction m with
  | nil => rfl
  | cons c m ih =>
    rcases c with ⟨k, v⟩
    simp only [List.mem_cons, forall_eq_or_imp] at h
    simp [ByteMap.read, h.1, ih h.2]

theorem ByteMap.mem_drop {m : ByteMap} {a : Nat} {c : Host.Cell} : c ∈ ByteMap.drop m a ↔ c ∈ m ∧ c.1 ≠ a := by
  induction m with
  | nil => simp [ByteMap.drop]
  | cons d m ih =>
    rcases d with ⟨k, v⟩
    by_cases hk : k = a
    · subst hk
      simp only [ByteMap.drop, if_true, ih, List.mem_cons]
      constructor
      · exact fun h => ⟨.inr h.1, h.2⟩
      · rintro ⟨rfl | h, h2⟩
        · exact absurd rfl h2
        · exact ⟨h, h2⟩
    · simp only [ByteMap.drop, hk, if_false, List.mem_cons, ih]
      constructor
      · rintro (rfl | h)
        · exact ⟨.inl rfl, hk⟩
        · exact ⟨.inr h.1, h.2⟩
      · rintro ⟨rfl | h, h2⟩
        · exact .inl rfl
        · exact .inr ⟨h, h2⟩

theorem ByteMap.mem_put {m : ByteMap} {a : Nat} {b : Byte} {c : Host.Cell} :
    c ∈ ByteMap.put m a b ↔ c = (a, b) ∨ c ∈ m := by
  induction m with
  | nil => simp [ByteMap.put]
  | cons d m ih =>
    rcases d with ⟨k, v⟩
    by_cases hk : a < k
    · simp [ByteMap.put, hk]
    · simp only [ByteMap.put, hk, if_false, List.mem_cons, ih]
      tauto

theorem ByteMap.read_drop_same (m : ByteMap) (a : Nat) : ByteMap.read (ByteMap.drop m a) a = 0#8 :=
  ByteMap.read_of_absent _ _ fun _ h => (ByteMap.mem_drop.1 h).2

theorem ByteMap.read_drop_ne (m : ByteMap) {a c : Nat} (h : c ≠ a) :
    ByteMap.read (ByteMap.drop m a) c = ByteMap.read m c := by
  induction m with
  | nil => rfl
  | cons d m ih =>
    rcases d with ⟨k, v⟩
    by_cases hk : k = a
    · subst hk
      simp [ByteMap.drop, ByteMap.read, ih, Ne.symm h]
    · simp [ByteMap.drop, hk, ByteMap.read, ih]

theorem ByteMap.read_put_same (m : ByteMap) (a : Nat) (b : Byte) (h : ∀ c ∈ m, c.1 ≠ a) :
    ByteMap.read (ByteMap.put m a b) a = b := by
  induction m with
  | nil => simp [ByteMap.put, ByteMap.read]
  | cons d m ih =>
    rcases d with ⟨k, v⟩
    simp only [List.mem_cons, forall_eq_or_imp] at h
    by_cases hk : a < k
    · simp [ByteMap.put, hk, ByteMap.read]
    · simp [ByteMap.put, hk, ByteMap.read, h.1, ih h.2]

theorem ByteMap.read_put_ne (m : ByteMap) {a c : Nat} (b : Byte) (h : c ≠ a) :
    ByteMap.read (ByteMap.put m a b) c = ByteMap.read m c := by
  induction m with
  | nil => simp [ByteMap.put, ByteMap.read, Ne.symm h]
  | cons d m ih =>
    rcases d with ⟨k, v⟩
    by_cases hk : a < k
    · simp [ByteMap.put, hk, ByteMap.read, Ne.symm h]
    · simp [ByteMap.put, hk, ByteMap.read, ih]

/-- A byte reads as it was last written. -/
theorem ByteMap.read_write_same (m : ByteMap) (a : Nat) (b : Byte) : ByteMap.read (ByteMap.write m a b) a = b := by
  unfold ByteMap.write
  split
  · rename_i h; rw [h, ByteMap.read_drop_same]
  · exact ByteMap.read_put_same _ _ _ fun _ h => (ByteMap.mem_drop.1 h).2

/-- A write leaves every other byte alone. -/
theorem ByteMap.read_write_ne (m : ByteMap) {a c : Nat} (b : Byte) (h : c ≠ a) :
    ByteMap.read (ByteMap.write m a b) c = ByteMap.read m c := by
  unfold ByteMap.write
  split
  · exact ByteMap.read_drop_ne m h
  · rw [ByteMap.read_put_ne _ _ h, ByteMap.read_drop_ne m h]

theorem ByteMap.read_write (m : ByteMap) (a c : Nat) (b : Byte) :
    ByteMap.read (ByteMap.write m a b) c = if c = a then b else ByteMap.read m c := by
  split
  · rename_i h; rw [h, ByteMap.read_write_same]
  · rename_i h; exact ByteMap.read_write_ne m b h

/-! ## The canonical form -/

theorem ByteMap.wf_cons {c : Host.Cell} {m : ByteMap} :
    ByteMap.wf (c :: m) = true ↔ c.2 ≠ 0#8 ∧ (∀ d ∈ m, c.1 < d.1) ∧ ByteMap.wf m = true := by
  rcases c with ⟨k, v⟩
  simp [ByteMap.wf, List.all_eq_true, and_assoc]

theorem ByteMap.wf_drop (m : ByteMap) (a : Nat) (h : ByteMap.wf m = true) : ByteMap.wf (ByteMap.drop m a) = true := by
  induction m with
  | nil => rfl
  | cons d m ih =>
    rcases d with ⟨k, v⟩
    rw [ByteMap.wf_cons] at h
    by_cases hk : k = a
    · simpa [ByteMap.drop, hk] using ih h.2.2
    · simp only [ByteMap.drop, hk, if_false]
      exact ByteMap.wf_cons.2 ⟨h.1, fun d hd => h.2.1 d (ByteMap.mem_drop.1 hd).1, ih h.2.2⟩

theorem ByteMap.wf_put (m : ByteMap) (a : Nat) (b : Byte) (hb : b ≠ 0#8) (ha : ∀ c ∈ m, c.1 ≠ a)
    (h : ByteMap.wf m = true) : ByteMap.wf (ByteMap.put m a b) = true := by
  induction m with
  | nil => simp [ByteMap.put, ByteMap.wf, hb]
  | cons d m ih =>
    rcases d with ⟨k, v⟩
    have hk := ha (k, v) (by simp)
    have hw := ByteMap.wf_cons.1 h
    by_cases hlt : a < k
    · simp only [ByteMap.put, hlt, if_true]
      refine ByteMap.wf_cons.2 ⟨hb, ?_, h⟩
      intro d hd
      rcases List.mem_cons.1 hd with rfl | hd
      · exact hlt
      · exact lt_trans hlt (hw.2.1 d hd)
    · simp only [ByteMap.put, hlt, if_false]
      refine ByteMap.wf_cons.2 ⟨hw.1, ?_, ih (fun c hc => ha c (by simp [hc])) hw.2.2⟩
      intro d hd
      rcases ByteMap.mem_put.1 hd with rfl | hd
      · exact lt_of_le_of_ne (not_lt.1 hlt) hk
      · exact hw.2.1 d hd

/-- A write keeps the canonical form. -/
theorem ByteMap.wf_write (m : ByteMap) (a : Nat) (b : Byte) (h : ByteMap.wf m = true) :
    ByteMap.wf (ByteMap.write m a b) = true := by
  unfold ByteMap.write
  split
  · exact ByteMap.wf_drop m a h
  · rename_i hb
    exact ByteMap.wf_put _ _ _ hb (fun _ hc => (ByteMap.mem_drop.1 hc).2) (ByteMap.wf_drop m a h)

/-- A write lists no number but its own and those listed before. -/
theorem ByteMap.mem_write {m : ByteMap} {a : Nat} {b : Byte} {c : Host.Cell} (h : c ∈ ByteMap.write m a b) :
    c ∈ m ∨ c.1 = a := by
  unfold ByteMap.write at h
  split at h
  · exact .inl (ByteMap.mem_drop.1 h).1
  · rcases ByteMap.mem_put.1 h with rfl | h
    · exact .inr rfl
    · exact .inl (ByteMap.mem_drop.1 h).1

/-! ## Little-endian groups -/

/-- Byte `m` of a value. -/
theorem byte_of_div (v m : Nat) : (BitVec.ofNat 8 (v / 2 ^ (8 * m))).toNat = v / 2 ^ (8 * m) % 256 := rfl

/-- The little-endian sum of the bytes of a value is the value, cut to the group's size. -/
theorem mod_pow_succ_bytes (v n : Nat) :
    v % 2 ^ (8 * n) + v / 2 ^ (8 * n) % 256 * 2 ^ (8 * n) = v % 2 ^ (8 * (n + 1)) := by
  have h : (2 : Nat) ^ (8 * (n + 1)) = 2 ^ (8 * n) * 256 := by rw [Nat.mul_add, Nat.pow_add]
  rw [h, Nat.mod_mul, Nat.mul_comm (v / 2 ^ (8 * n) % 256)]

theorem ByteMap.readLe_congr (m m' : ByteMap) (f g : Nat → Nat) (n : Nat)
    (h : ∀ k < n, ByteMap.read m (f k) = ByteMap.read m' (g k)) :
    ByteMap.readLe m f n = ByteMap.readLe m' g n := by
  induction n with
  | zero => rfl
  | succ n ih =>
    simp only [ByteMap.readLe]
    rw [ih fun k hk => h k (Nat.lt_succ_of_lt hk), h n (Nat.lt_succ_self n)]

theorem ByteMap.readLe_lt (m : ByteMap) (f : Nat → Nat) (n : Nat) : ByteMap.readLe m f n < 2 ^ (8 * n) := by
  induction n with
  | zero => simp [ByteMap.readLe]
  | succ n ih =>
    have h : (2 : Nat) ^ (8 * (n + 1)) = 2 ^ (8 * n) * 256 := by rw [Nat.mul_add, Nat.pow_add]
    have hb := (ByteMap.read m (f n)).isLt
    simp only [ByteMap.readLe]
    rw [h]
    nlinarith

/-- A group write leaves every byte outside the group alone. -/
theorem ByteMap.read_writeLe_other (m : ByteMap) (f : Nat → Nat) (v n c : Nat) (h : ∀ k < n, f k ≠ c) :
    ByteMap.read (ByteMap.writeLe m f v n) c = ByteMap.read m c := by
  induction n with
  | zero => rfl
  | succ n ih =>
    simp only [ByteMap.writeLe]
    rw [ByteMap.read_write_ne _ _ (Ne.symm (h n (Nat.lt_succ_self n))), ih fun k hk => h k (Nat.lt_succ_of_lt hk)]

/-- A byte of the group reads as the value's byte. -/
theorem ByteMap.read_writeLe_at (m : ByteMap) (f : Nat → Nat) (v n k : Nat) (hk : k < n)
    (hf : ∀ i < n, ∀ j < n, f i = f j → i = j) :
    ByteMap.read (ByteMap.writeLe m f v n) (f k) = BitVec.ofNat 8 (v / 2 ^ (8 * k)) := by
  induction n with
  | zero => omega
  | succ n ih =>
    simp only [ByteMap.writeLe]
    rcases Nat.lt_succ_iff_lt_or_eq.1 hk with h | rfl
    · rw [ByteMap.read_write_ne _ _ fun e => by have := hf k (by omega) n (by omega) e; omega,
        ih h fun i hi j hj => hf i (by omega) j (by omega)]
    · exact ByteMap.read_write_same _ _ _

/-- Reading a group back gives the value written, cut to the group's size. -/
theorem ByteMap.readLe_writeLe (m : ByteMap) (f : Nat → Nat) (v n : Nat) (hf : ∀ i < n, ∀ j < n, f i = f j → i = j) :
    ByteMap.readLe (ByteMap.writeLe m f v n) f n = v % 2 ^ (8 * n) := by
  suffices h : ∀ k ≤ n, ByteMap.readLe (ByteMap.writeLe m f v n) f k = v % 2 ^ (8 * k) from h n le_rfl
  intro k
  induction k with
  | zero => simp [ByteMap.readLe, Nat.mod_one]
  | succ k ih =>
    intro hk
    simp only [ByteMap.readLe]
    rw [ih (by omega), ByteMap.read_writeLe_at m f v n k (by omega) hf, byte_of_div, mod_pow_succ_bytes]

/-- A group write keeps the canonical form. -/
theorem ByteMap.wf_writeLe (m : ByteMap) (f : Nat → Nat) (v n : Nat) (h : ByteMap.wf m = true) :
    ByteMap.wf (ByteMap.writeLe m f v n) = true := by
  induction n with
  | zero => exact h
  | succ n ih => exact ByteMap.wf_write _ _ _ ih

/-- A group write lists no number but its own and those listed before. -/
theorem ByteMap.mem_writeLe {m : ByteMap} {f : Nat → Nat} {v n : Nat} {c : Host.Cell}
    (h : c ∈ ByteMap.writeLe m f v n) : c ∈ m ∨ ∃ k < n, c.1 = f k := by
  induction n with
  | zero => exact .inl h
  | succ n ih =>
    rcases ByteMap.mem_write h with h | h
    · rcases ih h with h | ⟨k, hk, e⟩
      · exact .inl h
      · exact .inr ⟨k, by omega, e⟩
    · exact .inr ⟨n, by omega, h⟩

end Sys2Proof.Machine
end

