-- ==== Sys2Proof/Laws/State.lean ====
section
/-! SUPPORT. One lemma for each field and each update of one field. -/

namespace Sys2Proof.Machine

@[simp] theorem State.setPc_cfg (s : State) (v : Word) : (s.setPc v).cfg = s.cfg := rfl
@[simp] theorem State.setPc_pc (s : State) (v : Word) : (s.setPc v).pc = v := rfl
@[simp] theorem State.setPc_xregs (s : State) (v : Word) : (s.setPc v).xregs = s.xregs := rfl
@[simp] theorem State.setPc_fregs (s : State) (v : Word) : (s.setPc v).fregs = s.fregs := rfl
@[simp] theorem State.setPc_vl (s : State) (v : Word) : (s.setPc v).vl = s.vl := rfl
@[simp] theorem State.setPc_vstart (s : State) (v : Word) : (s.setPc v).vstart = s.vstart := rfl
@[simp] theorem State.setPc_fflags (s : State) (v : Word) : (s.setPc v).fflags = s.fflags := rfl
@[simp] theorem State.setPc_frm (s : State) (v : Word) : (s.setPc v).frm = s.frm := rfl
@[simp] theorem State.setPc_mem (s : State) (v : Word) : (s.setPc v).mem = s.mem := rfl
@[simp] theorem State.setPc_mtvec (s : State) (v : Word) : (s.setPc v).mtvec = s.mtvec := rfl
@[simp] theorem State.setPc_mepc (s : State) (v : Word) : (s.setPc v).mepc = s.mepc := rfl
@[simp] theorem State.setPc_mcause (s : State) (v : Word) : (s.setPc v).mcause = s.mcause := rfl
@[simp] theorem State.setPc_mtval (s : State) (v : Word) : (s.setPc v).mtval = s.mtval := rfl
@[simp] theorem State.setPc_mscratch (s : State) (v : Word) : (s.setPc v).mscratch = s.mscratch := rfl
@[simp] theorem State.setPc_mie (s : State) (v : Word) : (s.setPc v).mie = s.mie := rfl
@[simp] theorem State.setPc_mpie (s : State) (v : Word) : (s.setPc v).mpie = s.mpie := rfl

@[simp] theorem State.setXregs_cfg (s : State) (m : ByteMap) : (s.setXregs m).cfg = s.cfg := rfl
@[simp] theorem State.setXregs_pc (s : State) (m : ByteMap) : (s.setXregs m).pc = s.pc := rfl
@[simp] theorem State.setXregs_xregs (s : State) (m : ByteMap) : (s.setXregs m).xregs = m := rfl
@[simp] theorem State.setXregs_fregs (s : State) (m : ByteMap) : (s.setXregs m).fregs = s.fregs := rfl
@[simp] theorem State.setXregs_vl (s : State) (m : ByteMap) : (s.setXregs m).vl = s.vl := rfl
@[simp] theorem State.setXregs_vstart (s : State) (m : ByteMap) : (s.setXregs m).vstart = s.vstart := rfl
@[simp] theorem State.setXregs_fflags (s : State) (m : ByteMap) : (s.setXregs m).fflags = s.fflags := rfl
@[simp] theorem State.setXregs_frm (s : State) (m : ByteMap) : (s.setXregs m).frm = s.frm := rfl
@[simp] theorem State.setXregs_mem (s : State) (m : ByteMap) : (s.setXregs m).mem = s.mem := rfl
@[simp] theorem State.setXregs_mtvec (s : State) (m : ByteMap) : (s.setXregs m).mtvec = s.mtvec := rfl
@[simp] theorem State.setXregs_mepc (s : State) (m : ByteMap) : (s.setXregs m).mepc = s.mepc := rfl
@[simp] theorem State.setXregs_mcause (s : State) (m : ByteMap) : (s.setXregs m).mcause = s.mcause := rfl
@[simp] theorem State.setXregs_mtval (s : State) (m : ByteMap) : (s.setXregs m).mtval = s.mtval := rfl
@[simp] theorem State.setXregs_mscratch (s : State) (m : ByteMap) : (s.setXregs m).mscratch = s.mscratch := rfl
@[simp] theorem State.setXregs_mie (s : State) (m : ByteMap) : (s.setXregs m).mie = s.mie := rfl
@[simp] theorem State.setXregs_mpie (s : State) (m : ByteMap) : (s.setXregs m).mpie = s.mpie := rfl

@[simp] theorem State.setFregs_cfg (s : State) (m : ByteMap) : (s.setFregs m).cfg = s.cfg := rfl
@[simp] theorem State.setFregs_pc (s : State) (m : ByteMap) : (s.setFregs m).pc = s.pc := rfl
@[simp] theorem State.setFregs_xregs (s : State) (m : ByteMap) : (s.setFregs m).xregs = s.xregs := rfl
@[simp] theorem State.setFregs_fregs (s : State) (m : ByteMap) : (s.setFregs m).fregs = m := rfl
@[simp] theorem State.setFregs_vl (s : State) (m : ByteMap) : (s.setFregs m).vl = s.vl := rfl
@[simp] theorem State.setFregs_vstart (s : State) (m : ByteMap) : (s.setFregs m).vstart = s.vstart := rfl
@[simp] theorem State.setFregs_fflags (s : State) (m : ByteMap) : (s.setFregs m).fflags = s.fflags := rfl
@[simp] theorem State.setFregs_frm (s : State) (m : ByteMap) : (s.setFregs m).frm = s.frm := rfl
@[simp] theorem State.setFregs_mem (s : State) (m : ByteMap) : (s.setFregs m).mem = s.mem := rfl
@[simp] theorem State.setFregs_mtvec (s : State) (m : ByteMap) : (s.setFregs m).mtvec = s.mtvec := rfl
@[simp] theorem State.setFregs_mepc (s : State) (m : ByteMap) : (s.setFregs m).mepc = s.mepc := rfl
@[simp] theorem State.setFregs_mcause (s : State) (m : ByteMap) : (s.setFregs m).mcause = s.mcause := rfl
@[simp] theorem State.setFregs_mtval (s : State) (m : ByteMap) : (s.setFregs m).mtval = s.mtval := rfl
@[simp] theorem State.setFregs_mscratch (s : State) (m : ByteMap) : (s.setFregs m).mscratch = s.mscratch := rfl
@[simp] theorem State.setFregs_mie (s : State) (m : ByteMap) : (s.setFregs m).mie = s.mie := rfl
@[simp] theorem State.setFregs_mpie (s : State) (m : ByteMap) : (s.setFregs m).mpie = s.mpie := rfl

@[simp] theorem State.setVl_cfg (s : State) (v : Nat) : (s.setVl v).cfg = s.cfg := rfl
@[simp] theorem State.setVl_pc (s : State) (v : Nat) : (s.setVl v).pc = s.pc := rfl
@[simp] theorem State.setVl_xregs (s : State) (v : Nat) : (s.setVl v).xregs = s.xregs := rfl
@[simp] theorem State.setVl_fregs (s : State) (v : Nat) : (s.setVl v).fregs = s.fregs := rfl
@[simp] theorem State.setVl_vl (s : State) (v : Nat) : (s.setVl v).vl = v := rfl
@[simp] theorem State.setVl_vstart (s : State) (v : Nat) : (s.setVl v).vstart = s.vstart := rfl
@[simp] theorem State.setVl_fflags (s : State) (v : Nat) : (s.setVl v).fflags = s.fflags := rfl
@[simp] theorem State.setVl_frm (s : State) (v : Nat) : (s.setVl v).frm = s.frm := rfl
@[simp] theorem State.setVl_mem (s : State) (v : Nat) : (s.setVl v).mem = s.mem := rfl
@[simp] theorem State.setVl_mtvec (s : State) (v : Nat) : (s.setVl v).mtvec = s.mtvec := rfl
@[simp] theorem State.setVl_mepc (s : State) (v : Nat) : (s.setVl v).mepc = s.mepc := rfl
@[simp] theorem State.setVl_mcause (s : State) (v : Nat) : (s.setVl v).mcause = s.mcause := rfl
@[simp] theorem State.setVl_mtval (s : State) (v : Nat) : (s.setVl v).mtval = s.mtval := rfl
@[simp] theorem State.setVl_mscratch (s : State) (v : Nat) : (s.setVl v).mscratch = s.mscratch := rfl
@[simp] theorem State.setVl_mie (s : State) (v : Nat) : (s.setVl v).mie = s.mie := rfl
@[simp] theorem State.setVl_mpie (s : State) (v : Nat) : (s.setVl v).mpie = s.mpie := rfl

@[simp] theorem State.setVstart_cfg (s : State) (v : Nat) : (s.setVstart v).cfg = s.cfg := rfl
@[simp] theorem State.setVstart_pc (s : State) (v : Nat) : (s.setVstart v).pc = s.pc := rfl
@[simp] theorem State.setVstart_xregs (s : State) (v : Nat) : (s.setVstart v).xregs = s.xregs := rfl
@[simp] theorem State.setVstart_fregs (s : State) (v : Nat) : (s.setVstart v).fregs = s.fregs := rfl
@[simp] theorem State.setVstart_vl (s : State) (v : Nat) : (s.setVstart v).vl = s.vl := rfl
@[simp] theorem State.setVstart_vstart (s : State) (v : Nat) : (s.setVstart v).vstart = v := rfl
@[simp] theorem State.setVstart_fflags (s : State) (v : Nat) : (s.setVstart v).fflags = s.fflags := rfl
@[simp] theorem State.setVstart_frm (s : State) (v : Nat) : (s.setVstart v).frm = s.frm := rfl
@[simp] theorem State.setVstart_mem (s : State) (v : Nat) : (s.setVstart v).mem = s.mem := rfl
@[simp] theorem State.setVstart_mtvec (s : State) (v : Nat) : (s.setVstart v).mtvec = s.mtvec := rfl
@[simp] theorem State.setVstart_mepc (s : State) (v : Nat) : (s.setVstart v).mepc = s.mepc := rfl
@[simp] theorem State.setVstart_mcause (s : State) (v : Nat) : (s.setVstart v).mcause = s.mcause := rfl
@[simp] theorem State.setVstart_mtval (s : State) (v : Nat) : (s.setVstart v).mtval = s.mtval := rfl
@[simp] theorem State.setVstart_mscratch (s : State) (v : Nat) : (s.setVstart v).mscratch = s.mscratch := rfl
@[simp] theorem State.setVstart_mie (s : State) (v : Nat) : (s.setVstart v).mie = s.mie := rfl
@[simp] theorem State.setVstart_mpie (s : State) (v : Nat) : (s.setVstart v).mpie = s.mpie := rfl

@[simp] theorem State.setFflags_cfg (s : State) (v : BitVec 5) : (s.setFflags v).cfg = s.cfg := rfl
@[simp] theorem State.setFflags_pc (s : State) (v : BitVec 5) : (s.setFflags v).pc = s.pc := rfl
@[simp] theorem State.setFflags_xregs (s : State) (v : BitVec 5) : (s.setFflags v).xregs = s.xregs := rfl
@[simp] theorem State.setFflags_fregs (s : State) (v : BitVec 5) : (s.setFflags v).fregs = s.fregs := rfl
@[simp] theorem State.setFflags_vl (s : State) (v : BitVec 5) : (s.setFflags v).vl = s.vl := rfl
@[simp] theorem State.setFflags_vstart (s : State) (v : BitVec 5) : (s.setFflags v).vstart = s.vstart := rfl
@[simp] theorem State.setFflags_fflags (s : State) (v : BitVec 5) : (s.setFflags v).fflags = v := rfl
@[simp] theorem State.setFflags_frm (s : State) (v : BitVec 5) : (s.setFflags v).frm = s.frm := rfl
@[simp] theorem State.setFflags_mem (s : State) (v : BitVec 5) : (s.setFflags v).mem = s.mem := rfl
@[simp] theorem State.setFflags_mtvec (s : State) (v : BitVec 5) : (s.setFflags v).mtvec = s.mtvec := rfl
@[simp] theorem State.setFflags_mepc (s : State) (v : BitVec 5) : (s.setFflags v).mepc = s.mepc := rfl
@[simp] theorem State.setFflags_mcause (s : State) (v : BitVec 5) : (s.setFflags v).mcause = s.mcause := rfl
@[simp] theorem State.setFflags_mtval (s : State) (v : BitVec 5) : (s.setFflags v).mtval = s.mtval := rfl
@[simp] theorem State.setFflags_mscratch (s : State) (v : BitVec 5) : (s.setFflags v).mscratch = s.mscratch := rfl
@[simp] theorem State.setFflags_mie (s : State) (v : BitVec 5) : (s.setFflags v).mie = s.mie := rfl
@[simp] theorem State.setFflags_mpie (s : State) (v : BitVec 5) : (s.setFflags v).mpie = s.mpie := rfl

@[simp] theorem State.setFrm_cfg (s : State) (v : BitVec 3) : (s.setFrm v).cfg = s.cfg := rfl
@[simp] theorem State.setFrm_pc (s : State) (v : BitVec 3) : (s.setFrm v).pc = s.pc := rfl
@[simp] theorem State.setFrm_xregs (s : State) (v : BitVec 3) : (s.setFrm v).xregs = s.xregs := rfl
@[simp] theorem State.setFrm_fregs (s : State) (v : BitVec 3) : (s.setFrm v).fregs = s.fregs := rfl
@[simp] theorem State.setFrm_vl (s : State) (v : BitVec 3) : (s.setFrm v).vl = s.vl := rfl
@[simp] theorem State.setFrm_vstart (s : State) (v : BitVec 3) : (s.setFrm v).vstart = s.vstart := rfl
@[simp] theorem State.setFrm_fflags (s : State) (v : BitVec 3) : (s.setFrm v).fflags = s.fflags := rfl
@[simp] theorem State.setFrm_frm (s : State) (v : BitVec 3) : (s.setFrm v).frm = v := rfl
@[simp] theorem State.setFrm_mem (s : State) (v : BitVec 3) : (s.setFrm v).mem = s.mem := rfl
@[simp] theorem State.setFrm_mtvec (s : State) (v : BitVec 3) : (s.setFrm v).mtvec = s.mtvec := rfl
@[simp] theorem State.setFrm_mepc (s : State) (v : BitVec 3) : (s.setFrm v).mepc = s.mepc := rfl
@[simp] theorem State.setFrm_mcause (s : State) (v : BitVec 3) : (s.setFrm v).mcause = s.mcause := rfl
@[simp] theorem State.setFrm_mtval (s : State) (v : BitVec 3) : (s.setFrm v).mtval = s.mtval := rfl
@[simp] theorem State.setFrm_mscratch (s : State) (v : BitVec 3) : (s.setFrm v).mscratch = s.mscratch := rfl
@[simp] theorem State.setFrm_mie (s : State) (v : BitVec 3) : (s.setFrm v).mie = s.mie := rfl
@[simp] theorem State.setFrm_mpie (s : State) (v : BitVec 3) : (s.setFrm v).mpie = s.mpie := rfl

@[simp] theorem State.setMem_cfg (s : State) (m : Memory) : (s.setMem m).cfg = s.cfg := rfl
@[simp] theorem State.setMem_pc (s : State) (m : Memory) : (s.setMem m).pc = s.pc := rfl
@[simp] theorem State.setMem_xregs (s : State) (m : Memory) : (s.setMem m).xregs = s.xregs := rfl
@[simp] theorem State.setMem_fregs (s : State) (m : Memory) : (s.setMem m).fregs = s.fregs := rfl
@[simp] theorem State.setMem_vl (s : State) (m : Memory) : (s.setMem m).vl = s.vl := rfl
@[simp] theorem State.setMem_vstart (s : State) (m : Memory) : (s.setMem m).vstart = s.vstart := rfl
@[simp] theorem State.setMem_fflags (s : State) (m : Memory) : (s.setMem m).fflags = s.fflags := rfl
@[simp] theorem State.setMem_frm (s : State) (m : Memory) : (s.setMem m).frm = s.frm := rfl
@[simp] theorem State.setMem_mem (s : State) (m : Memory) : (s.setMem m).mem = m := rfl
@[simp] theorem State.setMem_mtvec (s : State) (m : Memory) : (s.setMem m).mtvec = s.mtvec := rfl
@[simp] theorem State.setMem_mepc (s : State) (m : Memory) : (s.setMem m).mepc = s.mepc := rfl
@[simp] theorem State.setMem_mcause (s : State) (m : Memory) : (s.setMem m).mcause = s.mcause := rfl
@[simp] theorem State.setMem_mtval (s : State) (m : Memory) : (s.setMem m).mtval = s.mtval := rfl
@[simp] theorem State.setMem_mscratch (s : State) (m : Memory) : (s.setMem m).mscratch = s.mscratch := rfl
@[simp] theorem State.setMem_mie (s : State) (m : Memory) : (s.setMem m).mie = s.mie := rfl
@[simp] theorem State.setMem_mpie (s : State) (m : Memory) : (s.setMem m).mpie = s.mpie := rfl

@[simp] theorem State.setMtvec_cfg (s : State) (v : Word) : (s.setMtvec v).cfg = s.cfg := rfl
@[simp] theorem State.setMtvec_pc (s : State) (v : Word) : (s.setMtvec v).pc = s.pc := rfl
@[simp] theorem State.setMtvec_xregs (s : State) (v : Word) : (s.setMtvec v).xregs = s.xregs := rfl
@[simp] theorem State.setMtvec_fregs (s : State) (v : Word) : (s.setMtvec v).fregs = s.fregs := rfl
@[simp] theorem State.setMtvec_vl (s : State) (v : Word) : (s.setMtvec v).vl = s.vl := rfl
@[simp] theorem State.setMtvec_vstart (s : State) (v : Word) : (s.setMtvec v).vstart = s.vstart := rfl
@[simp] theorem State.setMtvec_fflags (s : State) (v : Word) : (s.setMtvec v).fflags = s.fflags := rfl
@[simp] theorem State.setMtvec_frm (s : State) (v : Word) : (s.setMtvec v).frm = s.frm := rfl
@[simp] theorem State.setMtvec_mem (s : State) (v : Word) : (s.setMtvec v).mem = s.mem := rfl
@[simp] theorem State.setMtvec_mtvec (s : State) (v : Word) : (s.setMtvec v).mtvec = v := rfl
@[simp] theorem State.setMtvec_mepc (s : State) (v : Word) : (s.setMtvec v).mepc = s.mepc := rfl
@[simp] theorem State.setMtvec_mcause (s : State) (v : Word) : (s.setMtvec v).mcause = s.mcause := rfl
@[simp] theorem State.setMtvec_mtval (s : State) (v : Word) : (s.setMtvec v).mtval = s.mtval := rfl
@[simp] theorem State.setMtvec_mscratch (s : State) (v : Word) : (s.setMtvec v).mscratch = s.mscratch := rfl
@[simp] theorem State.setMtvec_mie (s : State) (v : Word) : (s.setMtvec v).mie = s.mie := rfl
@[simp] theorem State.setMtvec_mpie (s : State) (v : Word) : (s.setMtvec v).mpie = s.mpie := rfl

@[simp] theorem State.setMepc_cfg (s : State) (v : Word) : (s.setMepc v).cfg = s.cfg := rfl
@[simp] theorem State.setMepc_pc (s : State) (v : Word) : (s.setMepc v).pc = s.pc := rfl
@[simp] theorem State.setMepc_xregs (s : State) (v : Word) : (s.setMepc v).xregs = s.xregs := rfl
@[simp] theorem State.setMepc_fregs (s : State) (v : Word) : (s.setMepc v).fregs = s.fregs := rfl
@[simp] theorem State.setMepc_vl (s : State) (v : Word) : (s.setMepc v).vl = s.vl := rfl
@[simp] theorem State.setMepc_vstart (s : State) (v : Word) : (s.setMepc v).vstart = s.vstart := rfl
@[simp] theorem State.setMepc_fflags (s : State) (v : Word) : (s.setMepc v).fflags = s.fflags := rfl
@[simp] theorem State.setMepc_frm (s : State) (v : Word) : (s.setMepc v).frm = s.frm := rfl
@[simp] theorem State.setMepc_mem (s : State) (v : Word) : (s.setMepc v).mem = s.mem := rfl
@[simp] theorem State.setMepc_mtvec (s : State) (v : Word) : (s.setMepc v).mtvec = s.mtvec := rfl
@[simp] theorem State.setMepc_mepc (s : State) (v : Word) : (s.setMepc v).mepc = v &&& ~~~1#64 := rfl
@[simp] theorem State.setMepc_mcause (s : State) (v : Word) : (s.setMepc v).mcause = s.mcause := rfl
@[simp] theorem State.setMepc_mtval (s : State) (v : Word) : (s.setMepc v).mtval = s.mtval := rfl
@[simp] theorem State.setMepc_mscratch (s : State) (v : Word) : (s.setMepc v).mscratch = s.mscratch := rfl
@[simp] theorem State.setMepc_mie (s : State) (v : Word) : (s.setMepc v).mie = s.mie := rfl
@[simp] theorem State.setMepc_mpie (s : State) (v : Word) : (s.setMepc v).mpie = s.mpie := rfl

@[simp] theorem State.setMcause_cfg (s : State) (v : Word) : (s.setMcause v).cfg = s.cfg := rfl
@[simp] theorem State.setMcause_pc (s : State) (v : Word) : (s.setMcause v).pc = s.pc := rfl
@[simp] theorem State.setMcause_xregs (s : State) (v : Word) : (s.setMcause v).xregs = s.xregs := rfl
@[simp] theorem State.setMcause_fregs (s : State) (v : Word) : (s.setMcause v).fregs = s.fregs := rfl
@[simp] theorem State.setMcause_vl (s : State) (v : Word) : (s.setMcause v).vl = s.vl := rfl
@[simp] theorem State.setMcause_vstart (s : State) (v : Word) : (s.setMcause v).vstart = s.vstart := rfl
@[simp] theorem State.setMcause_fflags (s : State) (v : Word) : (s.setMcause v).fflags = s.fflags := rfl
@[simp] theorem State.setMcause_frm (s : State) (v : Word) : (s.setMcause v).frm = s.frm := rfl
@[simp] theorem State.setMcause_mem (s : State) (v : Word) : (s.setMcause v).mem = s.mem := rfl
@[simp] theorem State.setMcause_mtvec (s : State) (v : Word) : (s.setMcause v).mtvec = s.mtvec := rfl
@[simp] theorem State.setMcause_mepc (s : State) (v : Word) : (s.setMcause v).mepc = s.mepc := rfl
@[simp] theorem State.setMcause_mcause (s : State) (v : Word) : (s.setMcause v).mcause = v := rfl
@[simp] theorem State.setMcause_mtval (s : State) (v : Word) : (s.setMcause v).mtval = s.mtval := rfl
@[simp] theorem State.setMcause_mscratch (s : State) (v : Word) : (s.setMcause v).mscratch = s.mscratch := rfl
@[simp] theorem State.setMcause_mie (s : State) (v : Word) : (s.setMcause v).mie = s.mie := rfl
@[simp] theorem State.setMcause_mpie (s : State) (v : Word) : (s.setMcause v).mpie = s.mpie := rfl

@[simp] theorem State.setMtval_cfg (s : State) (v : Word) : (s.setMtval v).cfg = s.cfg := rfl
@[simp] theorem State.setMtval_pc (s : State) (v : Word) : (s.setMtval v).pc = s.pc := rfl
@[simp] theorem State.setMtval_xregs (s : State) (v : Word) : (s.setMtval v).xregs = s.xregs := rfl
@[simp] theorem State.setMtval_fregs (s : State) (v : Word) : (s.setMtval v).fregs = s.fregs := rfl
@[simp] theorem State.setMtval_vl (s : State) (v : Word) : (s.setMtval v).vl = s.vl := rfl
@[simp] theorem State.setMtval_vstart (s : State) (v : Word) : (s.setMtval v).vstart = s.vstart := rfl
@[simp] theorem State.setMtval_fflags (s : State) (v : Word) : (s.setMtval v).fflags = s.fflags := rfl
@[simp] theorem State.setMtval_frm (s : State) (v : Word) : (s.setMtval v).frm = s.frm := rfl
@[simp] theorem State.setMtval_mem (s : State) (v : Word) : (s.setMtval v).mem = s.mem := rfl
@[simp] theorem State.setMtval_mtvec (s : State) (v : Word) : (s.setMtval v).mtvec = s.mtvec := rfl
@[simp] theorem State.setMtval_mepc (s : State) (v : Word) : (s.setMtval v).mepc = s.mepc := rfl
@[simp] theorem State.setMtval_mcause (s : State) (v : Word) : (s.setMtval v).mcause = s.mcause := rfl
@[simp] theorem State.setMtval_mtval (s : State) (v : Word) : (s.setMtval v).mtval = v := rfl
@[simp] theorem State.setMtval_mscratch (s : State) (v : Word) : (s.setMtval v).mscratch = s.mscratch := rfl
@[simp] theorem State.setMtval_mie (s : State) (v : Word) : (s.setMtval v).mie = s.mie := rfl
@[simp] theorem State.setMtval_mpie (s : State) (v : Word) : (s.setMtval v).mpie = s.mpie := rfl

@[simp] theorem State.setMscratch_cfg (s : State) (v : Word) : (s.setMscratch v).cfg = s.cfg := rfl
@[simp] theorem State.setMscratch_pc (s : State) (v : Word) : (s.setMscratch v).pc = s.pc := rfl
@[simp] theorem State.setMscratch_xregs (s : State) (v : Word) : (s.setMscratch v).xregs = s.xregs := rfl
@[simp] theorem State.setMscratch_fregs (s : State) (v : Word) : (s.setMscratch v).fregs = s.fregs := rfl
@[simp] theorem State.setMscratch_vl (s : State) (v : Word) : (s.setMscratch v).vl = s.vl := rfl
@[simp] theorem State.setMscratch_vstart (s : State) (v : Word) : (s.setMscratch v).vstart = s.vstart := rfl
@[simp] theorem State.setMscratch_fflags (s : State) (v : Word) : (s.setMscratch v).fflags = s.fflags := rfl
@[simp] theorem State.setMscratch_frm (s : State) (v : Word) : (s.setMscratch v).frm = s.frm := rfl
@[simp] theorem State.setMscratch_mem (s : State) (v : Word) : (s.setMscratch v).mem = s.mem := rfl
@[simp] theorem State.setMscratch_mtvec (s : State) (v : Word) : (s.setMscratch v).mtvec = s.mtvec := rfl
@[simp] theorem State.setMscratch_mepc (s : State) (v : Word) : (s.setMscratch v).mepc = s.mepc := rfl
@[simp] theorem State.setMscratch_mcause (s : State) (v : Word) : (s.setMscratch v).mcause = s.mcause := rfl
@[simp] theorem State.setMscratch_mtval (s : State) (v : Word) : (s.setMscratch v).mtval = s.mtval := rfl
@[simp] theorem State.setMscratch_mscratch (s : State) (v : Word) : (s.setMscratch v).mscratch = v := rfl
@[simp] theorem State.setMscratch_mie (s : State) (v : Word) : (s.setMscratch v).mie = s.mie := rfl
@[simp] theorem State.setMscratch_mpie (s : State) (v : Word) : (s.setMscratch v).mpie = s.mpie := rfl

@[simp] theorem State.setStatus_cfg (s : State) (a b : Bool) : (s.setStatus a b).cfg = s.cfg := rfl
@[simp] theorem State.setStatus_pc (s : State) (a b : Bool) : (s.setStatus a b).pc = s.pc := rfl
@[simp] theorem State.setStatus_xregs (s : State) (a b : Bool) : (s.setStatus a b).xregs = s.xregs := rfl
@[simp] theorem State.setStatus_fregs (s : State) (a b : Bool) : (s.setStatus a b).fregs = s.fregs := rfl
@[simp] theorem State.setStatus_vl (s : State) (a b : Bool) : (s.setStatus a b).vl = s.vl := rfl
@[simp] theorem State.setStatus_vstart (s : State) (a b : Bool) : (s.setStatus a b).vstart = s.vstart := rfl
@[simp] theorem State.setStatus_fflags (s : State) (a b : Bool) : (s.setStatus a b).fflags = s.fflags := rfl
@[simp] theorem State.setStatus_frm (s : State) (a b : Bool) : (s.setStatus a b).frm = s.frm := rfl
@[simp] theorem State.setStatus_mem (s : State) (a b : Bool) : (s.setStatus a b).mem = s.mem := rfl
@[simp] theorem State.setStatus_mtvec (s : State) (a b : Bool) : (s.setStatus a b).mtvec = s.mtvec := rfl
@[simp] theorem State.setStatus_mepc (s : State) (a b : Bool) : (s.setStatus a b).mepc = s.mepc := rfl
@[simp] theorem State.setStatus_mcause (s : State) (a b : Bool) : (s.setStatus a b).mcause = s.mcause := rfl
@[simp] theorem State.setStatus_mtval (s : State) (a b : Bool) : (s.setStatus a b).mtval = s.mtval := rfl
@[simp] theorem State.setStatus_mscratch (s : State) (a b : Bool) : (s.setStatus a b).mscratch = s.mscratch := rfl
@[simp] theorem State.setStatus_mie (s : State) (a b : Bool) : (s.setStatus a b).mie = a := rfl
@[simp] theorem State.setStatus_mpie (s : State) (a b : Bool) : (s.setStatus a b).mpie = b := rfl

@[simp] theorem State.goto_cfg (s : State) (w : Nat) (v : BitVec w) : (s.goto w v).cfg = s.cfg := rfl
@[simp] theorem State.goto_pc (s : State) (w : Nat) (v : BitVec w) : (s.goto w v).pc = BitVec.ofNat 64 v.toNat := rfl
@[simp] theorem State.goto_xregs (s : State) (w : Nat) (v : BitVec w) : (s.goto w v).xregs = s.xregs := rfl
@[simp] theorem State.goto_fregs (s : State) (w : Nat) (v : BitVec w) : (s.goto w v).fregs = s.fregs := rfl
@[simp] theorem State.goto_vl (s : State) (w : Nat) (v : BitVec w) : (s.goto w v).vl = s.vl := rfl
@[simp] theorem State.goto_vstart (s : State) (w : Nat) (v : BitVec w) : (s.goto w v).vstart = s.vstart := rfl
@[simp] theorem State.goto_fflags (s : State) (w : Nat) (v : BitVec w) : (s.goto w v).fflags = s.fflags := rfl
@[simp] theorem State.goto_frm (s : State) (w : Nat) (v : BitVec w) : (s.goto w v).frm = s.frm := rfl
@[simp] theorem State.goto_mem (s : State) (w : Nat) (v : BitVec w) : (s.goto w v).mem = s.mem := rfl
@[simp] theorem State.goto_mtvec (s : State) (w : Nat) (v : BitVec w) : (s.goto w v).mtvec = s.mtvec := rfl
@[simp] theorem State.goto_mepc (s : State) (w : Nat) (v : BitVec w) : (s.goto w v).mepc = s.mepc := rfl
@[simp] theorem State.goto_mcause (s : State) (w : Nat) (v : BitVec w) : (s.goto w v).mcause = s.mcause := rfl
@[simp] theorem State.goto_mtval (s : State) (w : Nat) (v : BitVec w) : (s.goto w v).mtval = s.mtval := rfl
@[simp] theorem State.goto_mscratch (s : State) (w : Nat) (v : BitVec w) : (s.goto w v).mscratch = s.mscratch := rfl
@[simp] theorem State.goto_mie (s : State) (w : Nat) (v : BitVec w) : (s.goto w v).mie = s.mie := rfl
@[simp] theorem State.goto_mpie (s : State) (w : Nat) (v : BitVec w) : (s.goto w v).mpie = s.mpie := rfl

@[simp] theorem State.advance_cfg (s : State) (n : Nat) : (s.advance n).cfg = s.cfg := rfl
@[simp] theorem State.advance_xregs (s : State) (n : Nat) : (s.advance n).xregs = s.xregs := rfl
@[simp] theorem State.advance_fregs (s : State) (n : Nat) : (s.advance n).fregs = s.fregs := rfl
@[simp] theorem State.advance_vl (s : State) (n : Nat) : (s.advance n).vl = s.vl := rfl
@[simp] theorem State.advance_vstart (s : State) (n : Nat) : (s.advance n).vstart = s.vstart := rfl
@[simp] theorem State.advance_fflags (s : State) (n : Nat) : (s.advance n).fflags = s.fflags := rfl
@[simp] theorem State.advance_frm (s : State) (n : Nat) : (s.advance n).frm = s.frm := rfl
@[simp] theorem State.advance_mem (s : State) (n : Nat) : (s.advance n).mem = s.mem := rfl
@[simp] theorem State.advance_mtvec (s : State) (n : Nat) : (s.advance n).mtvec = s.mtvec := rfl
@[simp] theorem State.advance_mepc (s : State) (n : Nat) : (s.advance n).mepc = s.mepc := rfl
@[simp] theorem State.advance_mcause (s : State) (n : Nat) : (s.advance n).mcause = s.mcause := rfl
@[simp] theorem State.advance_mtval (s : State) (n : Nat) : (s.advance n).mtval = s.mtval := rfl
@[simp] theorem State.advance_mscratch (s : State) (n : Nat) : (s.advance n).mscratch = s.mscratch := rfl
@[simp] theorem State.advance_mie (s : State) (n : Nat) : (s.advance n).mie = s.mie := rfl
@[simp] theorem State.advance_mpie (s : State) (n : Nat) : (s.advance n).mpie = s.mpie := rfl

@[simp] theorem State.setRegs_cfg (s : State) (k : RegFile) (m : ByteMap) : (s.setRegs k m).cfg = s.cfg := by cases k <;> rfl
@[simp] theorem State.setRegs_pc (s : State) (k : RegFile) (m : ByteMap) : (s.setRegs k m).pc = s.pc := by cases k <;> rfl
@[simp] theorem State.setRegs_vl (s : State) (k : RegFile) (m : ByteMap) : (s.setRegs k m).vl = s.vl := by cases k <;> rfl
@[simp] theorem State.setRegs_vstart (s : State) (k : RegFile) (m : ByteMap) : (s.setRegs k m).vstart = s.vstart := by cases k <;> rfl
@[simp] theorem State.setRegs_fflags (s : State) (k : RegFile) (m : ByteMap) : (s.setRegs k m).fflags = s.fflags := by cases k <;> rfl
@[simp] theorem State.setRegs_frm (s : State) (k : RegFile) (m : ByteMap) : (s.setRegs k m).frm = s.frm := by cases k <;> rfl
@[simp] theorem State.setRegs_mem (s : State) (k : RegFile) (m : ByteMap) : (s.setRegs k m).mem = s.mem := by cases k <;> rfl
@[simp] theorem State.setRegs_mtvec (s : State) (k : RegFile) (m : ByteMap) : (s.setRegs k m).mtvec = s.mtvec := by cases k <;> rfl
@[simp] theorem State.setRegs_mepc (s : State) (k : RegFile) (m : ByteMap) : (s.setRegs k m).mepc = s.mepc := by cases k <;> rfl
@[simp] theorem State.setRegs_mcause (s : State) (k : RegFile) (m : ByteMap) : (s.setRegs k m).mcause = s.mcause := by cases k <;> rfl
@[simp] theorem State.setRegs_mtval (s : State) (k : RegFile) (m : ByteMap) : (s.setRegs k m).mtval = s.mtval := by cases k <;> rfl
@[simp] theorem State.setRegs_mscratch (s : State) (k : RegFile) (m : ByteMap) : (s.setRegs k m).mscratch = s.mscratch := by cases k <;> rfl
@[simp] theorem State.setRegs_mie (s : State) (k : RegFile) (m : ByteMap) : (s.setRegs k m).mie = s.mie := by cases k <;> rfl
@[simp] theorem State.setRegs_mpie (s : State) (k : RegFile) (m : ByteMap) : (s.setRegs k m).mpie = s.mpie := by cases k <;> rfl

@[simp] theorem State.memPut_cfg (s : State) (a w : Nat) (v : BitVec w) : (s.memPut a w v).cfg = s.cfg := rfl
@[simp] theorem State.memPut_pc (s : State) (a w : Nat) (v : BitVec w) : (s.memPut a w v).pc = s.pc := rfl
@[simp] theorem State.memPut_xregs (s : State) (a w : Nat) (v : BitVec w) : (s.memPut a w v).xregs = s.xregs := rfl
@[simp] theorem State.memPut_fregs (s : State) (a w : Nat) (v : BitVec w) : (s.memPut a w v).fregs = s.fregs := rfl
@[simp] theorem State.memPut_vl (s : State) (a w : Nat) (v : BitVec w) : (s.memPut a w v).vl = s.vl := rfl
@[simp] theorem State.memPut_vstart (s : State) (a w : Nat) (v : BitVec w) : (s.memPut a w v).vstart = s.vstart := rfl
@[simp] theorem State.memPut_fflags (s : State) (a w : Nat) (v : BitVec w) : (s.memPut a w v).fflags = s.fflags := rfl
@[simp] theorem State.memPut_frm (s : State) (a w : Nat) (v : BitVec w) : (s.memPut a w v).frm = s.frm := rfl
@[simp] theorem State.memPut_mtvec (s : State) (a w : Nat) (v : BitVec w) : (s.memPut a w v).mtvec = s.mtvec := rfl
@[simp] theorem State.memPut_mepc (s : State) (a w : Nat) (v : BitVec w) : (s.memPut a w v).mepc = s.mepc := rfl
@[simp] theorem State.memPut_mcause (s : State) (a w : Nat) (v : BitVec w) : (s.memPut a w v).mcause = s.mcause := rfl
@[simp] theorem State.memPut_mtval (s : State) (a w : Nat) (v : BitVec w) : (s.memPut a w v).mtval = s.mtval := rfl
@[simp] theorem State.memPut_mscratch (s : State) (a w : Nat) (v : BitVec w) : (s.memPut a w v).mscratch = s.mscratch := rfl
@[simp] theorem State.memPut_mie (s : State) (a w : Nat) (v : BitVec w) : (s.memPut a w v).mie = s.mie := rfl
@[simp] theorem State.memPut_mpie (s : State) (a w : Nat) (v : BitVec w) : (s.memPut a w v).mpie = s.mpie := rfl

/-- Two states are one where every field agrees. -/
theorem State.ext' {s t : State} (h1 : s.cfg = t.cfg) (h2 : s.pc = t.pc) (h3 : s.xregs = t.xregs)
    (h4 : s.fregs = t.fregs) (h5 : s.vl = t.vl) (h6 : s.vstart = t.vstart) (h7 : s.fflags = t.fflags)
    (h8 : s.frm = t.frm) (h9 : s.mem = t.mem) (h10 : s.mtvec = t.mtvec) (h11 : s.mepc = t.mepc)
    (h12 : s.mcause = t.mcause) (h13 : s.mtval = t.mtval) (h14 : s.mscratch = t.mscratch) (h15 : s.mie = t.mie)
    (h16 : s.mpie = t.mpie) : s = t := by
  cases s; cases t; simp_all

end Sys2Proof.Machine
end

