-- ==== Sys2Proof/Laws/Registers.lean ====
section
/-! SUPPORT. What the register-file operations do: bytes, elements and whole registers (rules R21, R26 to R28). -/

namespace Sys2Proof.Machine

/-! ## Fields that a register write keeps -/

@[simp] theorem State.setRegs_regs_same (s : State) (f : RegFile) (m : ByteMap) : (s.setRegs f m).regs f = m := by
  cases f <;> rfl

@[simp] theorem State.setRegs_regs_ne (s : State) {f g : RegFile} (m : ByteMap) (h : g ≠ f) :
    (s.setRegs f m).regs g = s.regs g := by
  cases f <;> cases g <;> first | rfl | exact absurd rfl h

/-- The state with other register files: what every register write makes of a state. -/
def State.withRegs (s : State) (x f : ByteMap) : State := { s with xregs := x, fregs := f }

theorem State.setRegs_eq (s : State) (f : RegFile) (m : ByteMap) :
    s.setRegs f m = s.withRegs (s.setRegs f m).xregs (s.setRegs f m).fregs := by
  cases f <;> rfl

theorem State.setRegByte_eq (s : State) (f : RegFile) (b : Nat) (v : Byte) :
    s.setRegByte f b v = s.withRegs (s.setRegByte f b v).xregs (s.setRegByte f b v).fregs := by
  unfold State.setRegByte
  split
  · rfl
  · exact State.setRegs_eq ..

/-- A group of register bytes written changes the register files and nothing else. -/
theorem State.setRegBytes_eq (s : State) (f : RegFile) (b0 v n : Nat) :
    s.setRegBytes f b0 v n = s.withRegs (s.setRegBytes f b0 v n).xregs (s.setRegBytes f b0 v n).fregs := by
  induction n with
  | zero => rfl
  | succ n ih =>
    simp only [State.setRegBytes]
    rw [State.setRegByte_eq]
    generalize State.setRegBytes s f b0 v n = t at *
    rw [ih]
    rfl

/-- An element write changes the register files and nothing else. -/
theorem State.elemPut_eq (s : State) (f : RegFile) (n k w : Nat) (v : BitVec w) :
    s.elemPut f n k w v = s.withRegs (s.elemPut f n k w v).xregs (s.elemPut f n k w v).fregs :=
  State.setRegBytes_eq ..

theorem State.putX_eq (s : State) (w r : Nat) (v : BitVec w) :
    s.putX w r v = s.withRegs (s.putX w r v).xregs (s.putX w r v).fregs :=
  State.elemPut_eq ..

theorem State.putF_eq (s : State) (w r : Nat) (v : BitVec w) :
    s.putF w r v = s.withRegs (s.putF w r v).xregs (s.putF w r v).fregs :=
  State.elemPut_eq ..

@[simp] theorem State.setRegByte_cfg (s : State) (f : RegFile) (b : Nat) (v : Byte) : (s.setRegByte f b v).cfg = s.cfg := by
  rw [State.setRegByte_eq]; rfl
@[simp] theorem State.setRegByte_pc (s : State) (f : RegFile) (b : Nat) (v : Byte) : (s.setRegByte f b v).pc = s.pc := by
  rw [State.setRegByte_eq]; rfl
@[simp] theorem State.setRegByte_vl (s : State) (f : RegFile) (b : Nat) (v : Byte) : (s.setRegByte f b v).vl = s.vl := by
  rw [State.setRegByte_eq]; rfl
@[simp] theorem State.setRegByte_vstart (s : State) (f : RegFile) (b : Nat) (v : Byte) : (s.setRegByte f b v).vstart = s.vstart := by
  rw [State.setRegByte_eq]; rfl
@[simp] theorem State.setRegByte_fflags (s : State) (f : RegFile) (b : Nat) (v : Byte) : (s.setRegByte f b v).fflags = s.fflags := by
  rw [State.setRegByte_eq]; rfl
@[simp] theorem State.setRegByte_frm (s : State) (f : RegFile) (b : Nat) (v : Byte) : (s.setRegByte f b v).frm = s.frm := by
  rw [State.setRegByte_eq]; rfl
@[simp] theorem State.setRegByte_mem (s : State) (f : RegFile) (b : Nat) (v : Byte) : (s.setRegByte f b v).mem = s.mem := by
  rw [State.setRegByte_eq]; rfl
@[simp] theorem State.setRegByte_mtvec (s : State) (f : RegFile) (b : Nat) (v : Byte) : (s.setRegByte f b v).mtvec = s.mtvec := by
  rw [State.setRegByte_eq]; rfl
@[simp] theorem State.setRegByte_mepc (s : State) (f : RegFile) (b : Nat) (v : Byte) : (s.setRegByte f b v).mepc = s.mepc := by
  rw [State.setRegByte_eq]; rfl
@[simp] theorem State.setRegByte_mcause (s : State) (f : RegFile) (b : Nat) (v : Byte) : (s.setRegByte f b v).mcause = s.mcause := by
  rw [State.setRegByte_eq]; rfl
@[simp] theorem State.setRegByte_mtval (s : State) (f : RegFile) (b : Nat) (v : Byte) : (s.setRegByte f b v).mtval = s.mtval := by
  rw [State.setRegByte_eq]; rfl
@[simp] theorem State.setRegByte_mscratch (s : State) (f : RegFile) (b : Nat) (v : Byte) : (s.setRegByte f b v).mscratch = s.mscratch := by
  rw [State.setRegByte_eq]; rfl
@[simp] theorem State.setRegByte_mie (s : State) (f : RegFile) (b : Nat) (v : Byte) : (s.setRegByte f b v).mie = s.mie := by
  rw [State.setRegByte_eq]; rfl
@[simp] theorem State.setRegByte_mpie (s : State) (f : RegFile) (b : Nat) (v : Byte) : (s.setRegByte f b v).mpie = s.mpie := by
  rw [State.setRegByte_eq]; rfl

@[simp] theorem State.setRegBytes_cfg (s : State) (f : RegFile) (b0 v n : Nat) : (s.setRegBytes f b0 v n).cfg = s.cfg := by
  rw [State.setRegBytes_eq]; rfl
@[simp] theorem State.setRegBytes_pc (s : State) (f : RegFile) (b0 v n : Nat) : (s.setRegBytes f b0 v n).pc = s.pc := by
  rw [State.setRegBytes_eq]; rfl
@[simp] theorem State.setRegBytes_vl (s : State) (f : RegFile) (b0 v n : Nat) : (s.setRegBytes f b0 v n).vl = s.vl := by
  rw [State.setRegBytes_eq]; rfl
@[simp] theorem State.setRegBytes_vstart (s : State) (f : RegFile) (b0 v n : Nat) : (s.setRegBytes f b0 v n).vstart = s.vstart := by
  rw [State.setRegBytes_eq]; rfl
@[simp] theorem State.setRegBytes_fflags (s : State) (f : RegFile) (b0 v n : Nat) : (s.setRegBytes f b0 v n).fflags = s.fflags := by
  rw [State.setRegBytes_eq]; rfl
@[simp] theorem State.setRegBytes_frm (s : State) (f : RegFile) (b0 v n : Nat) : (s.setRegBytes f b0 v n).frm = s.frm := by
  rw [State.setRegBytes_eq]; rfl
@[simp] theorem State.setRegBytes_mem (s : State) (f : RegFile) (b0 v n : Nat) : (s.setRegBytes f b0 v n).mem = s.mem := by
  rw [State.setRegBytes_eq]; rfl
@[simp] theorem State.setRegBytes_mtvec (s : State) (f : RegFile) (b0 v n : Nat) : (s.setRegBytes f b0 v n).mtvec = s.mtvec := by
  rw [State.setRegBytes_eq]; rfl
@[simp] theorem State.setRegBytes_mepc (s : State) (f : RegFile) (b0 v n : Nat) : (s.setRegBytes f b0 v n).mepc = s.mepc := by
  rw [State.setRegBytes_eq]; rfl
@[simp] theorem State.setRegBytes_mcause (s : State) (f : RegFile) (b0 v n : Nat) : (s.setRegBytes f b0 v n).mcause = s.mcause := by
  rw [State.setRegBytes_eq]; rfl
@[simp] theorem State.setRegBytes_mtval (s : State) (f : RegFile) (b0 v n : Nat) : (s.setRegBytes f b0 v n).mtval = s.mtval := by
  rw [State.setRegBytes_eq]; rfl
@[simp] theorem State.setRegBytes_mscratch (s : State) (f : RegFile) (b0 v n : Nat) : (s.setRegBytes f b0 v n).mscratch = s.mscratch := by
  rw [State.setRegBytes_eq]; rfl
@[simp] theorem State.setRegBytes_mie (s : State) (f : RegFile) (b0 v n : Nat) : (s.setRegBytes f b0 v n).mie = s.mie := by
  rw [State.setRegBytes_eq]; rfl
@[simp] theorem State.setRegBytes_mpie (s : State) (f : RegFile) (b0 v n : Nat) : (s.setRegBytes f b0 v n).mpie = s.mpie := by
  rw [State.setRegBytes_eq]; rfl

@[simp] theorem State.elemPut_cfg (s : State) (f : RegFile) (n k w : Nat) (v : BitVec w) : (s.elemPut f n k w v).cfg = s.cfg := by
  rw [State.elemPut_eq]; rfl
@[simp] theorem State.elemPut_pc (s : State) (f : RegFile) (n k w : Nat) (v : BitVec w) : (s.elemPut f n k w v).pc = s.pc := by
  rw [State.elemPut_eq]; rfl
@[simp] theorem State.elemPut_vl (s : State) (f : RegFile) (n k w : Nat) (v : BitVec w) : (s.elemPut f n k w v).vl = s.vl := by
  rw [State.elemPut_eq]; rfl
@[simp] theorem State.elemPut_vstart (s : State) (f : RegFile) (n k w : Nat) (v : BitVec w) : (s.elemPut f n k w v).vstart = s.vstart := by
  rw [State.elemPut_eq]; rfl
@[simp] theorem State.elemPut_fflags (s : State) (f : RegFile) (n k w : Nat) (v : BitVec w) : (s.elemPut f n k w v).fflags = s.fflags := by
  rw [State.elemPut_eq]; rfl
@[simp] theorem State.elemPut_frm (s : State) (f : RegFile) (n k w : Nat) (v : BitVec w) : (s.elemPut f n k w v).frm = s.frm := by
  rw [State.elemPut_eq]; rfl
@[simp] theorem State.elemPut_mem (s : State) (f : RegFile) (n k w : Nat) (v : BitVec w) : (s.elemPut f n k w v).mem = s.mem := by
  rw [State.elemPut_eq]; rfl
@[simp] theorem State.elemPut_mtvec (s : State) (f : RegFile) (n k w : Nat) (v : BitVec w) : (s.elemPut f n k w v).mtvec = s.mtvec := by
  rw [State.elemPut_eq]; rfl
@[simp] theorem State.elemPut_mepc (s : State) (f : RegFile) (n k w : Nat) (v : BitVec w) : (s.elemPut f n k w v).mepc = s.mepc := by
  rw [State.elemPut_eq]; rfl
@[simp] theorem State.elemPut_mcause (s : State) (f : RegFile) (n k w : Nat) (v : BitVec w) : (s.elemPut f n k w v).mcause = s.mcause := by
  rw [State.elemPut_eq]; rfl
@[simp] theorem State.elemPut_mtval (s : State) (f : RegFile) (n k w : Nat) (v : BitVec w) : (s.elemPut f n k w v).mtval = s.mtval := by
  rw [State.elemPut_eq]; rfl
@[simp] theorem State.elemPut_mscratch (s : State) (f : RegFile) (n k w : Nat) (v : BitVec w) : (s.elemPut f n k w v).mscratch = s.mscratch := by
  rw [State.elemPut_eq]; rfl
@[simp] theorem State.elemPut_mie (s : State) (f : RegFile) (n k w : Nat) (v : BitVec w) : (s.elemPut f n k w v).mie = s.mie := by
  rw [State.elemPut_eq]; rfl
@[simp] theorem State.elemPut_mpie (s : State) (f : RegFile) (n k w : Nat) (v : BitVec w) : (s.elemPut f n k w v).mpie = s.mpie := by
  rw [State.elemPut_eq]; rfl

@[simp] theorem State.putX_cfg (s : State) (w r : Nat) (v : BitVec w) : (s.putX w r v).cfg = s.cfg := by
  rw [State.putX_eq]; rfl
@[simp] theorem State.putX_pc (s : State) (w r : Nat) (v : BitVec w) : (s.putX w r v).pc = s.pc := by
  rw [State.putX_eq]; rfl
@[simp] theorem State.putX_vl (s : State) (w r : Nat) (v : BitVec w) : (s.putX w r v).vl = s.vl := by
  rw [State.putX_eq]; rfl
@[simp] theorem State.putX_vstart (s : State) (w r : Nat) (v : BitVec w) : (s.putX w r v).vstart = s.vstart := by
  rw [State.putX_eq]; rfl
@[simp] theorem State.putX_fflags (s : State) (w r : Nat) (v : BitVec w) : (s.putX w r v).fflags = s.fflags := by
  rw [State.putX_eq]; rfl
@[simp] theorem State.putX_frm (s : State) (w r : Nat) (v : BitVec w) : (s.putX w r v).frm = s.frm := by
  rw [State.putX_eq]; rfl
@[simp] theorem State.putX_mem (s : State) (w r : Nat) (v : BitVec w) : (s.putX w r v).mem = s.mem := by
  rw [State.putX_eq]; rfl
@[simp] theorem State.putX_mtvec (s : State) (w r : Nat) (v : BitVec w) : (s.putX w r v).mtvec = s.mtvec := by
  rw [State.putX_eq]; rfl
@[simp] theorem State.putX_mepc (s : State) (w r : Nat) (v : BitVec w) : (s.putX w r v).mepc = s.mepc := by
  rw [State.putX_eq]; rfl
@[simp] theorem State.putX_mcause (s : State) (w r : Nat) (v : BitVec w) : (s.putX w r v).mcause = s.mcause := by
  rw [State.putX_eq]; rfl
@[simp] theorem State.putX_mtval (s : State) (w r : Nat) (v : BitVec w) : (s.putX w r v).mtval = s.mtval := by
  rw [State.putX_eq]; rfl
@[simp] theorem State.putX_mscratch (s : State) (w r : Nat) (v : BitVec w) : (s.putX w r v).mscratch = s.mscratch := by
  rw [State.putX_eq]; rfl
@[simp] theorem State.putX_mie (s : State) (w r : Nat) (v : BitVec w) : (s.putX w r v).mie = s.mie := by
  rw [State.putX_eq]; rfl
@[simp] theorem State.putX_mpie (s : State) (w r : Nat) (v : BitVec w) : (s.putX w r v).mpie = s.mpie := by
  rw [State.putX_eq]; rfl

@[simp] theorem State.putF_cfg (s : State) (w r : Nat) (v : BitVec w) : (s.putF w r v).cfg = s.cfg := by
  rw [State.putF_eq]; rfl
@[simp] theorem State.putF_pc (s : State) (w r : Nat) (v : BitVec w) : (s.putF w r v).pc = s.pc := by
  rw [State.putF_eq]; rfl
@[simp] theorem State.putF_vl (s : State) (w r : Nat) (v : BitVec w) : (s.putF w r v).vl = s.vl := by
  rw [State.putF_eq]; rfl
@[simp] theorem State.putF_vstart (s : State) (w r : Nat) (v : BitVec w) : (s.putF w r v).vstart = s.vstart := by
  rw [State.putF_eq]; rfl
@[simp] theorem State.putF_fflags (s : State) (w r : Nat) (v : BitVec w) : (s.putF w r v).fflags = s.fflags := by
  rw [State.putF_eq]; rfl
@[simp] theorem State.putF_frm (s : State) (w r : Nat) (v : BitVec w) : (s.putF w r v).frm = s.frm := by
  rw [State.putF_eq]; rfl
@[simp] theorem State.putF_mem (s : State) (w r : Nat) (v : BitVec w) : (s.putF w r v).mem = s.mem := by
  rw [State.putF_eq]; rfl
@[simp] theorem State.putF_mtvec (s : State) (w r : Nat) (v : BitVec w) : (s.putF w r v).mtvec = s.mtvec := by
  rw [State.putF_eq]; rfl
@[simp] theorem State.putF_mepc (s : State) (w r : Nat) (v : BitVec w) : (s.putF w r v).mepc = s.mepc := by
  rw [State.putF_eq]; rfl
@[simp] theorem State.putF_mcause (s : State) (w r : Nat) (v : BitVec w) : (s.putF w r v).mcause = s.mcause := by
  rw [State.putF_eq]; rfl
@[simp] theorem State.putF_mtval (s : State) (w r : Nat) (v : BitVec w) : (s.putF w r v).mtval = s.mtval := by
  rw [State.putF_eq]; rfl
@[simp] theorem State.putF_mscratch (s : State) (w r : Nat) (v : BitVec w) : (s.putF w r v).mscratch = s.mscratch := by
  rw [State.putF_eq]; rfl
@[simp] theorem State.putF_mie (s : State) (w r : Nat) (v : BitVec w) : (s.putF w r v).mie = s.mie := by
  rw [State.putF_eq]; rfl
@[simp] theorem State.putF_mpie (s : State) (w r : Nat) (v : BitVec w) : (s.putF w r v).mpie = s.mpie := by
  rw [State.putF_eq]; rfl

@[simp] theorem State.setRegByte_rb (s : State) (f g : RegFile) (b : Nat) (v : Byte) :
    (s.setRegByte f b v).rb g = s.rb g := by cases g <;> simp [State.rb]
@[simp] theorem State.setRegByte_firstByte (s : State) (f g : RegFile) (b : Nat) (v : Byte) :
    (s.setRegByte f b v).firstByte g = s.firstByte g := by cases g <;> simp [State.firstByte]
@[simp] theorem State.setRegBytes_rb (s : State) (f g : RegFile) (b0 v n : Nat) :
    (s.setRegBytes f b0 v n).rb g = s.rb g := by cases g <;> simp [State.rb]
@[simp] theorem State.setRegBytes_firstByte (s : State) (f g : RegFile) (b0 v n : Nat) :
    (s.setRegBytes f b0 v n).firstByte g = s.firstByte g := by cases g <;> simp [State.firstByte]
@[simp] theorem State.elemPut_rb (s : State) (f g : RegFile) (n k w : Nat) (v : BitVec w) :
    (s.elemPut f n k w v).rb g = s.rb g := by cases g <;> simp [State.rb]
@[simp] theorem State.elemPut_firstByte (s : State) (f g : RegFile) (n k w : Nat) (v : BitVec w) :
    (s.elemPut f n k w v).firstByte g = s.firstByte g := by cases g <;> simp [State.firstByte]
@[simp] theorem State.elemPut_elemByte (s : State) (f g : RegFile) (n k w n' k' w' : Nat) (v : BitVec w) :
    (s.elemPut f n k w v).elemByte g n' k' w' = s.elemByte g n' k' w' := by simp [State.elemByte]
@[simp] theorem State.elemPut_elemFits (s : State) (f g : RegFile) (n k w n' k' w' : Nat) (v : BitVec w) :
    (s.elemPut f n k w v).elemFits g n' k' w' = s.elemFits g n' k' w' := by simp [State.elemFits]

/-! ## Bytes -/

/-- A byte of x0 reads 0 (rule R29a). -/
theorem State.regByte_below (s : State) (f : RegFile) {b : Nat} (h : b < s.firstByte f) : s.regByte f b = 0#8 := by
  simp [State.regByte, h]

/-- A register byte reads as written, and a byte of x0 as 0; every other byte as before (rules R27, R28). -/
theorem State.regByte_setRegByte (s : State) (f g : RegFile) (b c : Nat) (v : Byte) :
    (s.setRegByte f b v).regByte g c = if g = f ∧ c = b ∧ s.firstByte f ≤ b then v else s.regByte g c := by
  by_cases hg : g = f
  · subst hg
    by_cases hb : b < s.firstByte g
    · simp [State.setRegByte, hb]
    · have hb' : s.firstByte g ≤ b := not_lt.1 hb
      simp only [State.regByte, State.setRegByte_firstByte, true_and, hb', and_true]
      simp only [State.setRegByte, hb, if_false, State.setRegs_regs_same, ByteMap.read_write]
      by_cases hc : c = b
      · subst hc; simp [hb]
      · simp [hc]
  · simp only [hg, false_and, if_false, State.regByte, State.setRegByte_firstByte]
    have h : (s.setRegByte f b v).regs g = s.regs g := by
      unfold State.setRegByte
      split
      · rfl
      · exact State.setRegs_regs_ne _ _ hg
    rw [h]

/-- Bytes of a group read as written (x0's as 0), every other byte as before. -/
theorem State.regByte_setRegBytes (s : State) (f g : RegFile) (b0 v n c : Nat) :
    (s.setRegBytes f b0 v n).regByte g c =
      if g = f ∧ b0 ≤ c ∧ c < b0 + n ∧ s.firstByte f ≤ c then BitVec.ofNat 8 (v / 2 ^ (8 * (c - b0)))
      else s.regByte g c := by
  induction n with
  | zero => simp [State.setRegBytes]; omega
  | succ n ih =>
    simp only [State.setRegBytes, State.regByte_setRegByte, State.setRegBytes_firstByte, ih]
    by_cases hg : g = f
    · by_cases hc : c = b0 + n
      · subst hc; by_cases hf : s.firstByte f ≤ b0 + n <;> simp [hg, hf]
      · by_cases h : b0 ≤ c ∧ c < b0 + n ∧ s.firstByte f ≤ c
        · have h' : b0 ≤ c ∧ c < b0 + (n + 1) ∧ s.firstByte f ≤ c := ⟨h.1, by omega, h.2.2⟩
          simp [hg, hc, h, h']
        · have h' : ¬(b0 ≤ c ∧ c < b0 + (n + 1) ∧ s.firstByte f ≤ c) := by omega
          simp only [hg, hc, true_and, false_and, if_false, h, h']
    · simp [hg]

theorem State.regBytes_congr (s t : State) (f g : RegFile) (b c n : Nat)
    (h : ∀ m < n, s.regByte f (b + m) = t.regByte g (c + m)) : s.regBytes f b n = t.regBytes g c n := by
  induction n with
  | zero => rfl
  | succ n ih =>
    simp only [State.regBytes]
    rw [ih fun m hm => h m (Nat.lt_succ_of_lt hm), h n (Nat.lt_succ_self n)]

theorem State.regBytes_lt (s : State) (f : RegFile) (b n : Nat) : s.regBytes f b n < 2 ^ (8 * n) := by
  induction n with
  | zero => simp [State.regBytes]
  | succ n ih =>
    have h : (2 : Nat) ^ (8 * (n + 1)) = 2 ^ (8 * n) * 256 := by rw [Nat.mul_add, Nat.pow_add]
    have hb := (s.regByte f (b + n)).isLt
    simp only [State.regBytes]
    rw [h]
    nlinarith

/-- A group of zero bytes is 0. -/
theorem State.regBytes_zero (s : State) (f : RegFile) (b n : Nat) (h : ∀ m < n, s.regByte f (b + m) = 0#8) :
    s.regBytes f b n = 0 := by
  induction n with
  | zero => rfl
  | succ n ih =>
    simp only [State.regBytes]
    rw [ih fun m hm => h m (Nat.lt_succ_of_lt hm), h n (Nat.lt_succ_self n)]
    simp

/-- A group that holds the bytes of a value is that value. -/
theorem State.regBytes_of_bytes (s : State) (f : RegFile) (b v n : Nat)
    (h : ∀ m < n, s.regByte f (b + m) = BitVec.ofNat 8 (v / 2 ^ (8 * m))) : s.regBytes f b n = v % 2 ^ (8 * n) := by
  induction n with
  | zero => simp [State.regBytes, Nat.mod_one]
  | succ n ih =>
    simp only [State.regBytes]
    rw [ih fun m hm => h m (Nat.lt_succ_of_lt hm), h n (Nat.lt_succ_self n), byte_of_div, mod_pow_succ_bytes]

/-- Byte `m` of a group of bytes. -/
theorem State.regBytes_byte (s : State) (f : RegFile) (b n m : Nat) (hm : m < n) :
    s.regBytes f b n / 2 ^ (8 * m) % 256 = (s.regByte f (b + m)).toNat := by
  induction n with
  | zero => omega
  | succ n ih =>
    simp only [State.regBytes]
    rcases Nat.lt_succ_iff_lt_or_eq.1 hm with h | rfl
    · obtain ⟨d, rfl⟩ : ∃ d, n = m + 1 + d := ⟨n - (m + 1), by omega⟩
      have e : (2 : Nat) ^ (8 * (m + 1 + d)) = 2 ^ (8 * m) * (256 * 2 ^ (8 * d)) := by
        rw [show 8 * (m + 1 + d) = 8 * m + (8 + 8 * d) by ring, Nat.pow_add, Nat.pow_add]
      rw [e, show (s.regByte f (b + (m + 1 + d))).toNat * (2 ^ (8 * m) * (256 * 2 ^ (8 * d))) =
        2 ^ (8 * m) * (256 * ((s.regByte f (b + (m + 1 + d))).toNat * 2 ^ (8 * d))) by ring,
        Nat.add_mul_div_left _ _ (Nat.two_pow_pos _), Nat.add_mul_mod_self_left, ih h]
    · rw [Nat.add_mul_div_right _ _ (Nat.two_pow_pos _), Nat.div_eq_of_lt (State.regBytes_lt s f b m), Nat.zero_add,
        Nat.mod_eq_of_lt (s.regByte f (b + m)).isLt]

/-! ## Elements -/

/-- What one element write does to every register byte (rule R28). -/
theorem State.regByte_elemPut (s : State) (f g : RegFile) (n k w c : Nat) (v : BitVec w) :
    (s.elemPut f n k w v).regByte g c =
      if g = f ∧ s.elemByte f n k w ≤ c ∧ c < s.elemByte f n k w + w / 8 ∧ s.firstByte f ≤ c then
        BitVec.ofNat 8 (v.toNat / 2 ^ (8 * (c - s.elemByte f n k w)))
      else s.regByte g c :=
  State.regByte_setRegBytes ..

/-- An element that no byte of a write touches reads as before. -/
theorem State.elemGet_elemPut_disjoint (s : State) (f g : RegFile) (n k w n' k' w' : Nat) (v : BitVec w)
    (h : g ≠ f ∨ s.elemByte g n' k' w' + w' / 8 ≤ s.elemByte f n k w ∨
      s.elemByte f n k w + w / 8 ≤ s.elemByte g n' k' w') :
    (s.elemPut f n k w v).elemGet g n' k' w' = s.elemGet g n' k' w' := by
  unfold State.elemGet
  rw [State.elemPut_elemByte]
  congr 1
  apply State.regBytes_congr
  intro m hm
  rw [State.regByte_elemPut, if_neg]
  rintro ⟨h1, h2, h3, -⟩
  subst h1
  rcases h with h | h | h
  · exact h rfl
  · omega
  · omega

/-- An element reads as written, where none of its bytes lies in x0 and its width is whole bytes (rules R27, R28). -/
theorem State.elemGet_elemPut_same (s : State) (f : RegFile) (n k w : Nat) (v : BitVec w) (hw : 8 * (w / 8) = w)
    (h : s.firstByte f ≤ s.elemByte f n k w) : (s.elemPut f n k w v).elemGet f n k w = v := by
  unfold State.elemGet
  rw [State.elemPut_elemByte, State.regBytes_of_bytes _ f _ v.toNat]
  · rw [hw]
    apply BitVec.eq_of_toNat_eq
    rw [BitVec.toNat_ofNat, Nat.mod_mod, Nat.mod_eq_of_lt v.isLt]
  · intro m hm
    rw [State.regByte_elemPut, if_pos ⟨rfl, by omega, by omega, by omega⟩, Nat.add_sub_cancel_left]

/-! ## Whole registers -/

/-- XLEN is whole bytes. -/
theorem xbits_bytes (c : Config) : 8 * (c.xbits / 8) = c.xbits := by
  cases h : c.xlen <;> simp [Config.xbits, XLen.bits, h]

theorem xbits_pos (c : Config) : 0 < c.xbits := by
  cases h : c.xlen <;> simp [Config.xbits, XLen.bits, h]

/-- FLEN is whole bytes. -/
theorem fbits_bytes (c : Config) : 8 * (c.fbits / 8) = c.fbits := by
  cases h : c.flen <;> simp [Config.fbits, FLen.bits, h]

/-- x0 reads 0 (rule R21). -/
theorem State.getX_zero (s : State) : s.getX s.cfg.xbits 0 = 0 := by
  unfold State.getX State.elemGet
  rw [State.regBytes_zero]
  · simp
  · intro m hm
    apply State.regByte_below
    simpa [State.elemByte, State.firstByte] using hm

/-- A write to x0 is discarded (rule R21). -/
theorem State.putX_zero (s : State) (v : BitVec s.cfg.xbits) : s.putX s.cfg.xbits 0 v = s := by
  unfold State.putX State.elemPut
  suffices h : ∀ n ≤ s.cfg.xbits / 8,
      s.setRegBytes .x (s.elemByte .x 0 0 s.cfg.xbits) v.toNat n = s from h _ le_rfl
  intro n
  induction n with
  | zero => exact fun _ => rfl
  | succ n ih =>
    intro hn
    simp only [State.setRegBytes]
    rw [ih (by omega)]
    have : s.elemByte .x 0 0 s.cfg.xbits + n < s.firstByte .x := by simp [State.elemByte, State.firstByte]; omega
    simp [State.setRegByte, this]

/-- A register other than x0 reads as written. -/
theorem State.getX_putX_same (s : State) (r : Nat) (v : BitVec s.cfg.xbits) (h : r ≠ 0) :
    (s.putX s.cfg.xbits r v).getX s.cfg.xbits r = v := by
  apply State.elemGet_elemPut_same
  · exact (xbits_bytes s.cfg)
  · have : 1 * s.rb .x ≤ r * s.rb .x := Nat.mul_le_mul_right _ (by omega)
    simp only [State.elemByte, State.firstByte, State.rb] at *
    omega

theorem mul_gap {a b c : Nat} (h : a < b) : a * c + c ≤ b * c := by
  have : (a + 1) * c ≤ b * c := Nat.mul_le_mul_right _ h
  linarith [Nat.succ_mul a c]

/-- Every other register reads as before. -/
theorem State.getX_putX_ne (s : State) {r q : Nat} (v : BitVec s.cfg.xbits) (h : q ≠ r) :
    (s.putX s.cfg.xbits r v).getX s.cfg.xbits q = s.getX s.cfg.xbits q := by
  apply State.elemGet_elemPut_disjoint
  right
  simp only [State.elemByte, State.rb, Nat.zero_mul, Nat.add_zero]
  rcases Nat.lt_or_gt_of_ne h with h | h
  · exact .inl (mul_gap h)
  · exact .inr (mul_gap h)

/-- An FP register reads as written. -/
theorem State.getF_putF_same (s : State) (r : Nat) (v : BitVec s.cfg.fbits) :
    (s.putF s.cfg.fbits r v).getF s.cfg.fbits r = v :=
  State.elemGet_elemPut_same _ _ _ _ _ _ (fbits_bytes s.cfg) (by simp [State.firstByte])

/-- Every other FP register reads as before. -/
theorem State.getF_putF_ne (s : State) {r q : Nat} (v : BitVec s.cfg.fbits) (h : q ≠ r) :
    (s.putF s.cfg.fbits r v).getF s.cfg.fbits q = s.getF s.cfg.fbits q := by
  apply State.elemGet_elemPut_disjoint
  right
  simp only [State.elemByte, State.rb, Nat.zero_mul, Nat.add_zero]
  rcases Nat.lt_or_gt_of_ne h with h | h
  · exact .inl (mul_gap h)
  · exact .inr (mul_gap h)

/-- A write to one file leaves the other alone. -/
theorem State.getF_putX (s : State) (r q w w' : Nat) (v : BitVec w) : (s.putX w r v).getF w' q = s.getF w' q :=
  State.elemGet_elemPut_disjoint _ _ _ _ _ _ _ _ _ _ (.inl (by decide))

theorem State.getX_putF (s : State) (r q w w' : Nat) (v : BitVec w) : (s.putF w r v).getX w' q = s.getX w' q :=
  State.elemGet_elemPut_disjoint _ _ _ _ _ _ _ _ _ _ (.inl (by decide))

end Sys2Proof.Machine
end

