-- ==== Sys2Proof/Laws/Memory.lean ====
section
/-! SUPPORT. What the memory operations do: bytes, values, the canonical form, and the checks (rules R51 to R58). -/

namespace Sys2Proof.Machine

theorem State.span_pos (s : State) : 0 < s.span := Nat.two_pow_pos _

theorem State.wrapAddr_lt (s : State) (a m : Nat) : s.wrapAddr a m < s.span := Nat.mod_lt _ s.span_pos

@[simp] theorem State.memPut_span (s : State) (a w : Nat) (v : BitVec w) : (s.memPut a w v).span = s.span := rfl
@[simp] theorem State.memPut_wrapAddr (s : State) (a w : Nat) (v : BitVec w) (b m : Nat) :
    (s.memPut a w v).wrapAddr b m = s.wrapAddr b m := rfl

/-- The address space holds at least 2^32 addresses. -/
theorem State.two_pow_32_le_span (s : State) : 2 ^ 32 ≤ s.span := by
  unfold State.span Config.xbits XLen.bits
  cases s.cfg.xlen
  · exact le_refl _
  · exact Nat.pow_le_pow_right (by omega) (by decide)

/-- The addresses of one access are distinct. -/
theorem State.wrapAddr_inj (s : State) (a n : Nat) (hn : n ≤ 2 ^ 32) :
    ∀ i < n, ∀ j < n, s.wrapAddr a i = s.wrapAddr a j → i = j := by
  intro i hi j hj h
  have hs := le_trans hn s.two_pow_32_le_span
  exact Nat.ModEq.eq_of_lt_of_lt (Nat.ModEq.add_left_cancel' a h) (lt_of_lt_of_le hi hs) (lt_of_lt_of_le hj hs)

/-- Memory reads back what was written, at the same address and width (rule R52). -/
theorem State.memGet_memPut_same (s : State) (a w : Nat) (v : BitVec w) (hw : 8 * (w / 8) = w) (hn : w / 8 ≤ 2 ^ 32) :
    (s.memPut a w v).memGet a w = v := by
  show BitVec.ofNat w (ByteMap.readLe (ByteMap.writeLe s.mem (s.wrapAddr a) v.toNat (w / 8)) (s.wrapAddr a) (w / 8)) = v
  rw [ByteMap.readLe_writeLe _ _ _ _ (s.wrapAddr_inj a _ hn), hw]
  apply BitVec.eq_of_toNat_eq
  rw [BitVec.toNat_ofNat, Nat.mod_mod, Nat.mod_eq_of_lt v.isLt]

/-- A store leaves every byte outside its own alone. -/
theorem State.byteAt_memPut_other (s : State) (a w : Nat) (v : BitVec w) (b : Nat)
    (h : ∀ m < w / 8, s.wrapAddr a m ≠ b) : (s.memPut a w v).byteAt b = s.byteAt b :=
  ByteMap.read_writeLe_other _ _ _ _ _ h

/-- A byte of the store is the value's byte, the lowest address the least significant (rule R51). -/
theorem State.byteAt_memPut_at (s : State) (a w : Nat) (v : BitVec w) (m : Nat) (hm : m < w / 8) (hn : w / 8 ≤ 2 ^ 32) :
    (s.memPut a w v).byteAt (s.wrapAddr a m) = BitVec.ofNat 8 (v.toNat / 2 ^ (8 * m)) :=
  ByteMap.read_writeLe_at _ _ _ _ _ hm (s.wrapAddr_inj a _ hn)

/-- A store keeps the canonical form of memory. -/
theorem State.memPut_wf (s : State) (a w : Nat) (v : BitVec w) (h : Memory.wf s.mem = true) :
    Memory.wf (s.memPut a w v).mem = true :=
  ByteMap.wf_writeLe _ _ _ _ h

/-- A store lists addresses below 2^XLEN only. -/
theorem State.memPut_range (s : State) (a w : Nat) (v : BitVec w) (h : ∀ c ∈ s.mem, c.1 < s.span) :
    ∀ c ∈ (s.memPut a w v).mem, c.1 < s.span := by
  intro c hc
  rcases ByteMap.mem_writeLe hc with hc | ⟨k, -, e⟩
  · exact h c hc
  · rw [e]; exact s.wrapAddr_lt a k

/-! ## Register files keep their canonical form -/

theorem State.regs_setRegBytes_wf (s : State) (f g : RegFile) (b0 v n : Nat) (h : ByteMap.wf (s.regs g) = true) :
    ByteMap.wf ((s.setRegBytes f b0 v n).regs g) = true := by
  induction n with
  | zero => exact h
  | succ n ih =>
    simp only [State.setRegBytes]
    generalize s.setRegBytes f b0 v n = t at ih
    unfold State.setRegByte
    split
    · exact ih
    · by_cases hg : g = f
      · subst hg; rw [State.setRegs_regs_same]; exact ByteMap.wf_write _ _ _ ih
      · rw [State.setRegs_regs_ne _ _ hg]; exact ih

/-- A register write lists no byte but its own, none of x0, and those listed before. -/
theorem State.mem_regs_setRegBytes (s : State) (f g : RegFile) (b0 v n : Nat) {c : Host.Cell}
    (h : c ∈ (s.setRegBytes f b0 v n).regs g) :
    c ∈ s.regs g ∨ (g = f ∧ s.firstByte f ≤ c.1 ∧ b0 ≤ c.1 ∧ c.1 < b0 + n) := by
  induction n with
  | zero => exact .inl h
  | succ n ih =>
    simp only [State.setRegBytes] at h
    unfold State.setRegByte at h
    split at h
    · rcases ih h with h | ⟨h1, h2, h3, h4⟩
      · exact .inl h
      · exact .inr ⟨h1, h2, h3, by omega⟩
    · rename_i hb
      by_cases hg : g = f
      · subst hg
        rw [State.setRegs_regs_same] at h
        rcases ByteMap.mem_write h with h | h
        · rcases ih h with h | ⟨h1, h2, h3, h4⟩
          · exact .inl h
          · exact .inr ⟨h1, h2, h3, by omega⟩
        · simp only [State.setRegBytes_firstByte, not_lt] at hb
          exact .inr ⟨rfl, by omega, by omega, by omega⟩
      · rw [State.setRegs_regs_ne _ _ hg] at h
        rcases ih h with h | ⟨h1, h2, h3, h4⟩
        · exact .inl h
        · exact absurd h1 hg

/-! ## The checks depend on the parameters alone -/

theorem State.checkAccess_congr (s t : State) (h : s.cfg = t.cfg) (a n : Nat) (k : Access) :
    s.checkAccess a n k = t.checkAccess a n k := by
  cases s; cases t; cases h; rfl

theorem State.hitsText_congr (s t : State) (h : s.cfg = t.cfg) (a n : Nat) : s.hitsText a n = t.hitsText a n := by
  cases s; cases t; cases h; rfl

/-! ## Taking an exception -/

/-- Everything `raise` can do: enter the trap, or end the run. -/
theorem raise_cases (e : Exc) (info : Nat) (s : State) :
    (s.cfg.trapModel = .mmode ∧ raise e info s = .next (s.enterTrap e info)) ∨
      (s.cfg.trapModel = .stop ∧ raise e info s = .fault (.trapped e info s)) := by
  unfold raise
  cases h : s.cfg.trapModel <;> simp

/-- `raise` answers a next state only by entering the trap. -/
theorem raise_next {e : Exc} {info : Nat} {s t : State} (h : raise e info s = .next t) : t = s.enterTrap e info := by
  rcases raise_cases e info s with ⟨-, h'⟩ | ⟨-, h'⟩ <;> rw [h'] at h
  · injection h with h; exact h.symm
  · cases h

/-- What entering a trap leaves alone. -/
theorem State.enterTrap_keeps (s : State) (e : Exc) (info : Nat) :
    (s.enterTrap e info).cfg = s.cfg ∧ (s.enterTrap e info).xregs = s.xregs ∧ (s.enterTrap e info).fregs = s.fregs ∧
      (s.enterTrap e info).mem = s.mem ∧ (s.enterTrap e info).vl = s.vl ∧ (s.enterTrap e info).vstart = s.vstart ∧
      (s.enterTrap e info).fflags = s.fflags ∧ (s.enterTrap e info).frm = s.frm ∧
      (s.enterTrap e info).mtvec = s.mtvec ∧ (s.enterTrap e info).mscratch = s.mscratch := by
  simp only [State.enterTrap, State.setMepc, State.setMcause, State.setMtval, State.setStatus, State.setPc, and_self]

/-- Everything `legally` can do: run the meaning, or raise IllegalInstruction. -/
theorem legally_cases (ok : Bool) (i : Instr) (s : State) (k : Out) :
    (ok = true ∧ legally ok i s k = k) ∨
      (ok = false ∧ legally ok i s k = raise .illegalInstruction (encodeWord s.cfg.setvlEnc i) s) := by
  cases ok <;> simp [legally]

end Sys2Proof.Machine
end

