-- ==== Sys2Proof/Laws/Base.lean ====
section
/-! SUPPORT. What each shared form of the unprefixed instructions does, said once in the terms of Safety.lean. -/

namespace Sys2Proof.Machine

/-- XLEN is at most 64. -/
theorem xbits_le (c : Config) : c.xbits ≤ 64 := by
  unfold Config.xbits XLen.bits; cases c.xlen <;> decide

/-- A pc of XLEN bits fits its container. -/
theorem State.goto_pc_toNat (s : State) (v : BitVec s.cfg.xbits) : (s.goto s.cfg.xbits v).pc.toNat = v.toNat := by
  rw [State.goto_pc, BitVec.toNat_ofNat]
  exact Nat.mod_eq_of_lt (lt_of_lt_of_le v.isLt (Nat.pow_le_pow_right (by decide) (xbits_le _)))

theorem State.pcAt_toNat (s : State) : (s.pcAt s.cfg.xbits).toNat = s.pc.toNat % 2 ^ s.cfg.xbits :=
  BitVec.toNat_ofNat ..

/-- Moving past an instruction of `n` bytes (rules R35, R36). -/
theorem State.advance_past (s : State) (n : Nat) : PastPc s (s.advance n) n := by
  show ((s.goto s.cfg.xbits (s.pcAt s.cfg.xbits + BitVec.ofNat s.cfg.xbits n)).pc.toNat) = _
  rw [State.goto_pc_toNat, BitVec.toNat_add, State.pcAt_toNat, BitVec.toNat_ofNat, ← Nat.add_mod]

theorem State.advance_onlyPc (s : State) (n : Nat) : OnlyPc s (s.advance n) := rfl

/-- An element depends on the parameters and its own file only. -/
theorem State.elemGet_congr (s t : State) (f : RegFile) (hc : t.cfg = s.cfg) (hr : t.regs f = s.regs f) (n k w : Nat) :
    t.elemGet f n k w = s.elemGet f n k w := by
  have hb : t.rb f = s.rb f := by cases f <;> simp only [State.rb, hc]
  unfold State.elemGet State.elemByte
  rw [hb, State.regBytes_congr t s f f _ (n * s.rb f + k * (w / 8)) _ fun m _ => ?_]
  have hf : t.firstByte f = s.firstByte f := by cases f <;> simp only [State.firstByte, hc]
  rw [State.regByte, State.regByte, hf, hr]

/-- Integer registers depend on the parameters and their bytes only. -/
theorem State.getX_congr (s t : State) (hc : t.cfg = s.cfg) (hr : t.xregs = s.xregs) (w r : Nat) :
    t.getX w r = s.getX w r := State.elemGet_congr s t .x hc hr ..

/-- FP registers depend on the parameters and their bytes only. -/
theorem State.getF_congr (s t : State) (hc : t.cfg = s.cfg) (hr : t.fregs = s.fregs) (w r : Nat) :
    t.getF w r = s.getF w r := State.elemGet_congr s t .fp hc hr ..

@[simp] theorem State.getX_advance (s : State) (n w r : Nat) : (s.advance n).getX w r = s.getX w r :=
  State.getX_congr s (s.advance n) rfl rfl w r

@[simp] theorem State.getF_advance (s : State) (n w r : Nat) : (s.advance n).getF w r = s.getF w r :=
  State.getF_congr s (s.advance n) rfl rfl w r

@[simp] theorem State.getX_orFlags (s : State) (f : BitVec 5) (w r : Nat) : (s.orFlags f).getX w r = s.getX w r :=
  State.getX_congr s (s.orFlags f) rfl rfl w r

@[simp] theorem State.getF_orFlags (s : State) (f : BitVec 5) (w r : Nat) : (s.orFlags f).getF w r = s.getF w r :=
  State.getF_congr s (s.orFlags f) rfl rfl w r

theorem State.setRegBytes_regs_ne (s : State) {f g : RegFile} (h : g ≠ f) (b0 v n : Nat) :
    (s.setRegBytes f b0 v n).regs g = s.regs g := by
  induction n with
  | zero => rfl
  | succ n ih =>
    rw [State.setRegBytes, State.setRegByte]
    split
    · exact ih
    · rw [State.setRegs_regs_ne _ _ h, ih]

@[simp] theorem State.putX_fregs (s : State) (w r : Nat) (v : BitVec w) : (s.putX w r v).fregs = s.fregs :=
  s.setRegBytes_regs_ne (f := .x) (g := .fp) (by decide) ..

@[simp] theorem State.putF_xregs (s : State) (w r : Nat) (v : BitVec w) : (s.putF w r v).xregs = s.xregs :=
  s.setRegBytes_regs_ne (f := .fp) (g := .x) (by decide) ..

/-- An integer result (rule R333): what the destination holds, x0 excepted. -/
theorem State.getX_putX_if (s : State) (rd : BitVec 5) (v : BitVec s.cfg.xbits) :
    (s.putX s.cfg.xbits rd.toNat v).getX s.cfg.xbits rd.toNat = if rd = 0#5 then 0 else v := by
  by_cases h : rd = 0#5
  · subst h
    have h := (s.putX s.cfg.xbits 0 v).getX_zero
    rw [State.putX_zero] at h
    rw [if_pos rfl, show (0#5).toNat = 0 from rfl, State.putX_zero, h]
  · rw [if_neg h]
    exact s.getX_putX_same _ v fun e => h (BitVec.eq_of_toNat_eq e)

/-- A pc advance after register and flag writes. -/
theorem State.advance_past_of (s t : State) (n : Nat) (hc : t.cfg = s.cfg) (hp : t.pc = s.pc) :
    PastPc s (t.advance n) n := by
  have h := t.advance_past n
  unfold PastPc at h ⊢
  rwa [hc, hp] at h

/-- Everything `retireX` does. -/
theorem State.retireX_sets (s : State) (rd : BitVec 5) (v : BitVec s.cfg.xbits) :
    ∃ t, s.retireX s.cfg.xbits rd v = .next t ∧ SetsX s t rd v := by
  refine ⟨_, rfl, ?_, s.advance_past_of _ 4 (s.putX_cfg ..) (s.putX_pc ..), ?_, fun q hq => ?_⟩
  · simpa using s.getX_putX_if rd v
  · apply State.ext' <;> simp
  · simpa using s.getX_putX_ne v hq

/-- Everything `retireXFlags` does. -/
theorem State.retireXFlags_sets (s : State) (rd : BitVec 5) (r : Fp.Res s.cfg.xbits) :
    ∃ t, s.retireXFlags rd r = .next t ∧ SetsXFlags s t rd r.1 r.2 := by
  refine ⟨_, rfl, ?_, ?_, s.advance_past_of _ 4 (s.putX_cfg ..) (s.putX_pc ..), ?_, fun q hq => ?_⟩
  · simpa using s.getX_putX_if rd r.1
  · simp [State.orFlags]
  · apply State.ext' <;> simp [State.orFlags]
  · simpa using s.getX_putX_ne r.1 hq

/-- Everything `retireF` does. -/
theorem State.retireF_sets (s : State) {w : Nat} (rd : BitVec 5) (r : Fp.Res w) :
    ∃ t, s.retireF rd r = .next t ∧ SetsF s t rd (box s.cfg.fbits r.1) r.2 := by
  refine ⟨_, rfl, ?_, ?_, s.advance_past_of _ 4 (s.putF_cfg ..) (s.putF_pc ..), ?_, fun q hq => ?_⟩
  · simpa using s.getF_putF_same _ _
  · simp [State.orFlags]
  · apply State.ext' <;> simp [State.orFlags]
  · simpa using s.getF_putF_ne _ hq

/-- A store that passes its checks writes its bytes and nothing else (rules R51, R52). -/
theorem State.memPut_stores (s : State) (a w : Nat) (v : BitVec w) (hw : w / 8 ≤ 2 ^ 32) :
    Stores s ((s.memPut a w v).advance 4) a w v := by
  refine ⟨fun m hm => ?_, ?_, rfl, fun b hb => ?_⟩
  · show (s.memPut a w v).byteAt (s.wrapAddr a m) = _
    rw [State.byteAt_memPut_at _ _ _ _ _ hm hw]
    apply BitVec.eq_of_toNat_eq
    rw [BitVec.toNat_ofNat, BitVec.extractLsb'_toNat, Nat.shiftRight_eq_div_pow]
  · exact (s.memPut a w v).advance_past 4
  · show (s.memPut a w v).byteAt b = _
    exact State.byteAt_memPut_other _ _ _ _ _ fun m hm => hb m hm

/-- Clearing the low `k` bits of a word. -/
theorem clear_low (a : Word) (k : Nat) :
    a &&& ~~~(BitVec.ofNat 64 (2 ^ k - 1)) = BitVec.ofNat 64 (a.toNat / 2 ^ k * 2 ^ k) := by
  apply BitVec.eq_of_getLsbD_eq
  intro i hi
  rw [BitVec.getLsbD_and, BitVec.getLsbD_not, BitVec.getLsbD_ofNat, BitVec.getLsbD_ofNat, Nat.testBit_two_pow_sub_one,
    Nat.testBit_mul_two_pow, Nat.testBit_div_two_pow]
  by_cases h : i < k
  · simp [hi, h, not_le.2 h]
  · have h' : k ≤ i := not_lt.1 h
    simp [hi, h, h', Nat.sub_add_cancel h', BitVec.getLsbD]

/-- Trap entry in the terms of `Traps` (rule R390). -/
theorem State.enterTrap_traps (s : State) (e : Exc) (info : Nat) : Traps s (s.enterTrap e info) e info := by
  have h1 : s.pc &&& ~~~1#64 = BitVec.ofNat 64 (s.pc.toNat / 2 * 2) := clear_low s.pc 1
  have h2 : s.mtvec &&& ~~~3#64 = BitVec.ofNat 64 (s.mtvec.toNat / 4 * 4) := clear_low s.mtvec 2
  unfold Traps State.enterTrap State.setMepc State.setMcause State.setMtval State.setStatus State.setPc
  rw [h1, h2]
  rfl

/-- Everything `raise` does (rule R381). -/
theorem raise_raises (e : Exc) (info : Nat) (s : State) : Raises (raise e info s) s e info := by
  unfold Raises raise
  refine ⟨fun h => ?_, fun h => ?_⟩ <;> rw [h]
  exact ⟨_, rfl, s.enterTrap_traps e info⟩

end Sys2Proof.Machine
end

