-- ==== Sys2Proof/Laws/Prefixed.lean ====
section
/-! SUPPORT. What the loop of the prefixed instructions and its generic sub-vector operations do, said once in the terms
of Safety.lean. -/

namespace Sys2Proof.Machine

/-! ## The loop (rules R138 to R149) -/

/-- Where no enabled index stops, the loop ends in the commits of the enabled indices. -/
theorem subLoop_done (en : Nat → Bool) (op : SubOp) (n lo : Nat) (s : State)
    (h : ∀ k < n, en (lo + k) = true → op.check (stateBefore en op lo s k) (lo + k) = none) :
    subLoop en op n lo s = .done (stateBefore en op lo s n) := by
  suffices H : ∀ m k, k + m = n →
      subLoop en op m (lo + k) (stateBefore en op lo s k) = .done (stateBefore en op lo s n) from H n 0 (by omega)
  intro m
  induction m with
  | zero => intro k hk; obtain rfl : k = n := by omega
            rfl
  | succ m ih =>
    intro k hk
    have hs := ih (k + 1) (by omega)
    rw [← Nat.add_assoc] at hs
    rw [subLoop]
    cases he : en (lo + k) with
    | true =>
      rw [if_pos rfl, h k (by omega) he]
      simpa only [stateBefore, he, if_true] using hs
    | false => simpa only [stateBefore, he, if_false, Bool.false_eq_true] using hs

/-- Where index number `k` is the first enabled one that stops, the loop stops there, in the state that the lower
indices left (rule R144). -/
theorem subLoop_stopped (en : Nat → Bool) (op : SubOp) (n lo k : Nat) (s : State) (st : Stop) (hk : k < n)
    (h : ∀ j < k, en (lo + j) = true → op.check (stateBefore en op lo s j) (lo + j) = none)
    (he : en (lo + k) = true) (hc : op.check (stateBefore en op lo s k) (lo + k) = some st) :
    subLoop en op n lo s = .stopped (lo + k) st (stateBefore en op lo s k) := by
  suffices H : ∀ m j, j + m = n → j ≤ k →
      subLoop en op m (lo + j) (stateBefore en op lo s j) = .stopped (lo + k) st (stateBefore en op lo s k) from
    H n 0 (by omega) (by omega)
  intro m
  induction m with
  | zero => intro j hj hjk; omega
  | succ m ih =>
    intro j hj hjk
    rw [subLoop]
    rcases Nat.lt_or_eq_of_le hjk with hlt | rfl
    · have hs := ih (j + 1) (by omega) hlt
      rw [← Nat.add_assoc] at hs
      cases hej : en (lo + j) with
      | true =>
        rw [if_pos rfl, h j hlt hej]
        simpa only [stateBefore, hej, if_true] using hs
      | false => simpa only [stateBefore, hej, if_false, Bool.false_eq_true] using hs
    · rw [he, if_pos rfl, hc]

/-- The loop stops at an enabled index of its range, or ends. -/
theorem subLoop_cases (en : Nat → Bool) (op : SubOp) (n lo : Nat) (s : State) :
    (subLoop en op n lo s = .done (stateBefore en op lo s n) ∧
        ∀ k < n, en (lo + k) = true → op.check (stateBefore en op lo s k) (lo + k) = none) ∨
      ∃ k st, k < n ∧ en (lo + k) = true ∧
        (∀ j < k, en (lo + j) = true → op.check (stateBefore en op lo s j) (lo + j) = none) ∧
        op.check (stateBefore en op lo s k) (lo + k) = some st ∧
        subLoop en op n lo s = .stopped (lo + k) st (stateBefore en op lo s k) := by
  by_cases h : ∀ k < n, en (lo + k) = true → op.check (stateBefore en op lo s k) (lo + k) = none
  · exact .inl ⟨subLoop_done en op n lo s h, h⟩
  · right
    have hx : ∃ k, k < n ∧ en (lo + k) = true ∧ op.check (stateBefore en op lo s k) (lo + k) ≠ none := by
      push Not at h; exact h
    obtain ⟨hk, he, hc⟩ := Nat.find_spec hx
    obtain ⟨st, hst⟩ := Option.ne_none_iff_exists'.1 hc
    have hmin : ∀ j < Nat.find hx, en (lo + j) = true → op.check (stateBefore en op lo s j) (lo + j) = none := by
      intro j hj hej
      by_contra hcj
      exact Nat.find_min hx hj ⟨by omega, hej, hcj⟩
    exact ⟨_, st, hk, he, hmin, hst, subLoop_stopped en op n lo _ s st hk hmin he hst⟩

/-- The first index and the number of indices are those of Safety.lean. -/
theorem execPrefixed_eq (isvec : Bool) (p : Pred) (op : SubOp) (s : State) :
    execPrefixed isvec p op s =
      finish isvec (subLoop (enabled p s) op (indexCount isvec s) (firstIndex isvec s) s) := by
  cases isvec <;> rfl

/-- A state with the bookkeeping of a completed prefixed instruction. -/
theorem finish_done (isvec : Bool) (s u : State) (hc : u.cfg = s.cfg) (hp : u.pc = s.pc) (hv : u.vstart = s.vstart) :
    ∃ t, finish isvec (.done u) = .next t ∧ PastPc s t 6 ∧
      t = { u with pc := t.pc, vstart := if isvec then 0 else s.vstart } := by
  cases isvec
  · exact ⟨_, rfl, s.advance_past_of _ 6 hc hp, by rw [← hv]; rfl⟩
  · exact ⟨_, rfl, s.advance_past_of _ 6 hc hp, rfl⟩

/-- The states before the indices make a chain. -/
theorem stateBefore_chain (isvec : Bool) (p : Pred) (op : SubOp) (post : Nat → State → State → Prop) (s : State)
    (cnt : Nat)
    (hpost : ∀ k < cnt, enabled p s (firstIndex isvec s + k) = true →
      ∀ u, u = stateBefore (enabled p s) op (firstIndex isvec s) s k →
        post (firstIndex isvec s + k) u (op.commit u (firstIndex isvec s + k))) :
    Chain isvec p post cnt s (stateBefore (enabled p s) op (firstIndex isvec s) s cnt) := by
  refine ⟨stateBefore (enabled p s) op (firstIndex isvec s) s, rfl, fun k hlt => ?_, rfl⟩
  split
  · rename_i he
    rw [stateBefore, if_pos he]
    exact hpost k hlt he _ rfl
  · rename_i he
    rw [stateBefore, if_neg he]

/-- A prefixed instruction whose first stopping enabled index is number `k` ends there (rule R144). -/
theorem execPrefixed_stopped (isvec : Bool) (p : Pred) (op : SubOp) (s : State) (k : Nat) (st : Stop)
    (hk : k < indexCount isvec s)
    (hcheck : ∀ j < k, enabled p s (firstIndex isvec s + j) = true →
      op.check (stateBefore (enabled p s) op (firstIndex isvec s) s j) (firstIndex isvec s + j) = none)
    (he : enabled p s (firstIndex isvec s + k) = true)
    (hc : op.check (stateBefore (enabled p s) op (firstIndex isvec s) s k) (firstIndex isvec s + k) = some st) :
    execPrefixed isvec p op s = finish isvec
      (.stopped (firstIndex isvec s + k) st (stateBefore (enabled p s) op (firstIndex isvec s) s k)) := by
  rw [execPrefixed_eq, subLoop_stopped _ _ _ _ _ _ _ hk hcheck he hc]

/-- Everything a prefixed instruction can do: complete over all its indices, or stop at an enabled one, in the state
that the lower indices left. -/
theorem execPrefixed_cases (isvec : Bool) (p : Pred) (op : SubOp) (s : State) :
    execPrefixed isvec p op s =
        finish isvec (.done (stateBefore (enabled p s) op (firstIndex isvec s) s (indexCount isvec s))) ∨
      ∃ k st, k < indexCount isvec s ∧ enabled p s (firstIndex isvec s + k) = true ∧
        op.check (stateBefore (enabled p s) op (firstIndex isvec s) s k) (firstIndex isvec s + k) = some st ∧
        execPrefixed isvec p op s = finish isvec
          (.stopped (firstIndex isvec s + k) st (stateBefore (enabled p s) op (firstIndex isvec s) s k)) := by
  rw [execPrefixed_eq]
  rcases subLoop_cases (enabled p s) op (indexCount isvec s) (firstIndex isvec s) s with ⟨h, -⟩ | ⟨k, st, hk, he, -, hc, h⟩
  · exact .inl (by rw [h])
  · exact .inr ⟨k, st, hk, he, hc, by rw [h]⟩

/-- A property that every commit keeps holds before every index. -/
theorem stateBefore_keeps {P : State → Prop} (en : Nat → Bool) (op : SubOp) (lo : Nat) (s : State) (h0 : P s)
    (h : ∀ u i, P u → P (op.commit u i)) (k : Nat) : P (stateBefore en op lo s k) := by
  induction k with
  | zero => exact h0
  | succ k ih =>
    rw [stateBefore]
    split
    · exact h _ _ ih
    · exact ih

/-- A prefixed instruction none of whose enabled indices stops runs over all of them (rules R138, R140 to R143). -/
theorem execPrefixed_runs (isvec : Bool) (p : Pred) (op : SubOp) (post : Nat → State → State → Prop) (s : State)
    (hcheck : ∀ k < indexCount isvec s, enabled p s (firstIndex isvec s + k) = true →
      op.check (stateBefore (enabled p s) op (firstIndex isvec s) s k) (firstIndex isvec s + k) = none)
    (hpost : ∀ k < indexCount isvec s, enabled p s (firstIndex isvec s + k) = true →
      ∀ u, u = stateBefore (enabled p s) op (firstIndex isvec s) s k →
        post (firstIndex isvec s + k) u (op.commit u (firstIndex isvec s + k)))
    (hkeep : ∀ u i, (op.commit u i).cfg = u.cfg ∧ (op.commit u i).pc = u.pc ∧ (op.commit u i).vstart = u.vstart) :
    ∃ t, execPrefixed isvec p op s = .next t ∧ RunsOver isvec p post s t := by
  obtain ⟨h1, h2, h3⟩ := stateBefore_keeps (P := fun u => u.cfg = s.cfg ∧ u.pc = s.pc ∧ u.vstart = s.vstart)
    (enabled p s) op (firstIndex isvec s) s ⟨rfl, rfl, rfl⟩
    (fun u i ⟨a, b, c⟩ => ⟨(hkeep u i).1.trans a, (hkeep u i).2.1.trans b, (hkeep u i).2.2.trans c⟩)
    (indexCount isvec s)
  obtain ⟨t, ht, hpc, heq⟩ := finish_done isvec s _ h1 h2 h3
  refine ⟨t, ?_, _, stateBefore_chain isvec p op post s _ hpost, hpc, heq⟩
  rw [execPrefixed_eq, subLoop_done _ _ _ _ _ hcheck, ht]

/-! ## Stops of a sub-vector -/

/-- No element stops where none does on its own. -/
theorem firstStop_none {f : Nat → Option Stop} {n j : Nat} :
    firstStop f n j = none ↔ ∀ m < n, f (j + m) = none := by
  induction n generalizing j with
  | zero => exact ⟨fun _ m hm => absurd hm (Nat.not_lt_zero m), fun _ => rfl⟩
  | succ n ih =>
    rw [firstStop]
    constructor
    · intro h m hm
      cases hj : f j with
      | some st => rw [hj] at h; cases h
      | none =>
        rw [hj] at h
        cases m with
        | zero => exact hj
        | succ m => have := ih.1 h m (by omega); rwa [Nat.add_right_comm] at this
    · intro h
      have h0 : f j = none := h 0 (by omega)
      rw [h0]
      refine ih.2 fun m hm => ?_
      have := h (m + 1) (by omega)
      rwa [← Nat.add_assoc, Nat.add_right_comm] at this

@[simp] theorem Stop.orElse_none {a b : Option Stop} : Stop.orElse a b = none ↔ a = none ∧ b = none := by
  cases a <;> simp [Stop.orElse]

/-- An element stops exactly where it lies past register 127 (rule R29b). -/
theorem Opd.overrun_none (o : Opd) (s : State) (w n i j : Nat) :
    o.overrun s w n i j = none ↔ s.elemByte o.file o.num (o.index n i j) w + w / 8 ≤ 128 * s.rb o.file := by
  unfold Opd.overrun Opd.fits State.elemFits
  by_cases h : s.elemByte o.file o.num (o.index n i j) w + w / 8 ≤ 128 * s.rb o.file <;> simp [h]

theorem State.rb_congr {s t : State} (h : t.cfg = s.cfg) (f : RegFile) : t.rb f = s.rb f := by
  cases f <;> simp only [State.rb, h]

theorem State.firstByte_congr {s t : State} (h : t.cfg = s.cfg) (f : RegFile) : t.firstByte f = s.firstByte f := by
  cases f <;> simp only [State.firstByte, h]

theorem State.elemByte_congr {s t : State} (h : t.cfg = s.cfg) (f : RegFile) (n k w : Nat) :
    t.elemByte f n k w = s.elemByte f n k w := by
  unfold State.elemByte; rw [State.rb_congr h]

/-- Where an operand fits at every enabled index, no element of it stops, in any state of the run. -/
theorem OpdFits.overrun_none {o : Opd} {w n : Nat} {isvec : Bool} {p : Pred} {s : State} (h : OpdFits o w n isvec p s)
    {k : Nat} (hk : k < indexCount isvec s) (he : enabled p s (firstIndex isvec s + k) = true) {u : State}
    (hc : u.cfg = s.cfg) {j : Nat} (hj : j < n) : o.overrun u w n (firstIndex isvec s + k) j = none := by
  rw [Opd.overrun_none, State.elemByte_congr hc, State.rb_congr hc]
  exact h k hk he j hj

/-! ## Element writes (rules R28, R141) -/

/-- Writing elements one after the other changes the register files and nothing else. -/
theorem putEach_put_eq (dst : Opd) (w n i : Nat) (f : Nat → BitVec w) (m j : Nat) (s : State) :
    putEach (fun t j => dst.put t w n i j (f j)) m j s =
      s.withRegs (putEach (fun t j => dst.put t w n i j (f j)) m j s).xregs
        (putEach (fun t j => dst.put t w n i j (f j)) m j s).fregs := by
  induction m generalizing j s with
  | zero => rfl
  | succ m ih =>
    have h : ∀ u v : State, u = s.withRegs u.xregs u.fregs → v = u.withRegs v.xregs v.fregs →
        v = s.withRegs v.xregs v.fregs := by
      intro u v hu hv
      rw [hv, hu]; rfl
    exact h _ _ (State.elemPut_eq ..) (ih (j + 1) (dst.put s w n i j (f j)))

theorem putEach_put_cfg (dst : Opd) (w n i : Nat) (f : Nat → BitVec w) (m j : Nat) (s : State) :
    (putEach (fun t j => dst.put t w n i j (f j)) m j s).cfg = s.cfg := by
  rw [putEach_put_eq]; rfl

/-- Element numbers of one sub-vector rise one by one (rule R131). -/
theorem Opd.elemByte_index (o : Opd) (s : State) (w n i j : Nat) :
    s.elemByte o.file o.num (o.index n i j) w = s.elemByte o.file o.num (o.index n i 0) w + j * (w / 8) := by
  unfold State.elemByte Opd.index; ring

/-- What the element writes of one sub-vector do to every register byte. -/
theorem regByte_putEach_put (dst : Opd) (w n i : Nat) (f : Nat → BitVec w) (m j : Nat) (s : State) (g : RegFile)
    (b : Nat) :
    ((∀ q < m, ∀ r < w / 8, g = dst.file → b = s.elemByte dst.file dst.num (dst.index n i (j + q)) w + r →
        s.firstByte dst.file ≤ b →
        (putEach (fun t j => dst.put t w n i j (f j)) m j s).regByte g b = (f (j + q)).extractLsb' (8 * r) 8)) ∧
      ((g = dst.file → b < s.elemByte dst.file dst.num (dst.index n i j) w ∨
          s.elemByte dst.file dst.num (dst.index n i (j + m)) w ≤ b) →
        (putEach (fun t j => dst.put t w n i j (f j)) m j s).regByte g b = s.regByte g b) := by
  induction m generalizing j s with
  | zero => exact ⟨fun q hq => absurd hq (Nat.not_lt_zero q), fun _ => rfl⟩
  | succ m ih =>
    have hcfg : (dst.put s w n i j (f j)).cfg = s.cfg := State.elemPut_cfg ..
    obtain ⟨ih1, ih2⟩ := ih (j + 1) (dst.put s w n i j (f j))
    simp only [State.elemByte_congr hcfg, State.firstByte_congr hcfg] at ih1 ih2
    have hput := State.regByte_elemPut s dst.file g dst.num (dst.index n i j) w b (f j)
    have e : ∀ q, s.elemByte dst.file dst.num (dst.index n i q) w =
      s.elemByte dst.file dst.num (dst.index n i 0) w + q * (w / 8) := fun q => dst.elemByte_index s w n i q
    constructor
    · intro q hq r hr hg hb hf
      rw [putEach]
      rcases q with _ | q
      · have hb' : b = s.elemByte dst.file dst.num (dst.index n i 0) w + j * (w / 8) + r := by
          rw [hb, e]; rfl
        rw [ih2 fun _ => .inl (by rw [e, Nat.add_mul]; omega)]
        show (s.elemPut dst.file dst.num (dst.index n i j) w (f j)).regByte g b = _
        rw [hput, if_pos ⟨hg, by rw [e]; omega, by rw [e]; omega, hf⟩]
        apply BitVec.eq_of_toNat_eq
        rw [BitVec.toNat_ofNat, BitVec.extractLsb'_toNat, Nat.shiftRight_eq_div_pow, e, hb', Nat.add_sub_cancel_left]
        rfl
      · have h := ih1 q (by omega) r hr hg (by rw [hb]; congr 3; omega) hf
        rw [h]; congr 2; omega
    · intro h
      rw [putEach, ih2 fun hg => ?_]
      · show (s.elemPut dst.file dst.num (dst.index n i j) w (f j)).regByte g b = _
        rw [hput, if_neg]
        rintro ⟨hg, h1, h2, -⟩
        have := h hg
        rw [e j, e (j + (m + 1))] at this
        rw [e] at h1 h2
        have h3 : (j + (m + 1)) * (w / 8) = j * (w / 8) + (m * (w / 8) + w / 8) := by ring
        omega
      · have := h hg
        rw [e j, e (j + (m + 1))] at this
        rw [e (j + 1), e (j + 1 + m)]
        have h3 : (j + (m + 1)) * (w / 8) = j * (w / 8) + (m * (w / 8) + w / 8) := by ring
        have h4 : (j + 1 + m) * (w / 8) = j * (w / 8) + (m * (w / 8) + w / 8) := by ring
        have h5 : (j + 1) * (w / 8) = j * (w / 8) + w / 8 := by ring
        omega

/-- The writes of one sub-vector in the terms of `ElemsWritten`, without flags. -/
theorem putEach_put_written (dst : Opd) (w n i : Nat) (f : Nat → BitVec w) (s : State) :
    ElemsWritten dst w n i f 0#5 s (putEach (fun t j => dst.put t w n i j (f j)) n 0 s) := by
  refine ⟨fun j hj m hm hf => ?_, fun g b h => ?_, ?_⟩
  · have := (regByte_putEach_put dst w n i f n 0 s dst.file
      (s.elemByte dst.file dst.num (dst.index n i j) w + m)).1 j hj m hm rfl (by rw [Nat.zero_add]) hf
    rwa [Nat.zero_add] at this
  · refine (regByte_putEach_put dst w n i f n 0 s g b).2 fun hg => ?_
    rw [Nat.zero_add]; exact h hg
  · rw [putEach_put_eq, BitVec.or_zero]; rfl

theorem ElemsWritten.orFlags {dst : Opd} {w n i : Nat} {r : Nat → BitVec w} {s t : State}
    (h : ElemsWritten dst w n i r 0#5 s t) (fl : BitVec 5) : ElemsWritten dst w n i r fl s (t.orFlags fl) := by
  obtain ⟨h1, h2, h3⟩ := h
  have hb : ∀ g b, (t.orFlags fl).regByte g b = t.regByte g b := fun g b => by cases g <;> rfl
  refine ⟨fun j hj m hm hf => (hb _ _).trans (h1 j hj m hm hf), fun g b h => (hb _ _).trans (h2 g b h), ?_⟩
  rw [h3]
  simp [State.orFlags, State.setFflags]

/-- What `commitElems` does (rules R28, R141, R264). -/
theorem commitElems_written (dst : Opd) (w n i : Nat) (f : Nat → Fp.Res w) (s : State) :
    ElemsWritten dst w n i (fun j => (f j).1) (flagsOf (fun j => (f j).2) n 0) s (commitElems dst w n i f s) :=
  (putEach_put_written dst w n i (fun j => (f j).1) s).orFlags _

/-- Results without flags set none. -/
theorem flagsOf_zero {f : Nat → BitVec 5} (h : ∀ j, f j = 0#5) (n j : Nat) : flagsOf f n j = 0#5 := by
  induction n generalizing j with
  | zero => rfl
  | succ n ih => rw [flagsOf, ih, h]; rfl

/-- What an element write leaves alone. -/
theorem ElemsWritten.keeps {dst : Opd} {w n i : Nat} {r : Nat → BitVec w} {fl : BitVec 5} {s t : State}
    (h : ElemsWritten dst w n i r fl s t) : t.cfg = s.cfg ∧ t.pc = s.pc ∧ t.vstart = s.vstart := by
  rw [h.2.2]; exact ⟨rfl, rfl, rfl⟩

/-! ## The element-wise operation (rules R191, R230, R247, R266) -/

/-- An element-wise instruction whose operands lie in the register files completes, and writes at each enabled index the
results computed from the state before it. -/
theorem elementwise_runs (isvec : Bool) (p : Pred) (n : Nat) (dst : Opd) (w : Nat) (srcs : List SizedOpd)
    (f : State → Nat → Nat → Fp.Res w) (s : State) (hd : OpdFits dst w n isvec p s)
    (hs : ∀ x ∈ srcs, OpdFits x.1 x.2 n isvec p s) :
    ∃ t, execPrefixed isvec p (elementwise n dst w srcs f) s = .next t ∧
      RunsOver isvec p
        (fun i a b => ElemsWritten dst w n i (fun j => (f a i j).1) (flagsOf (fun j => (f a i j).2) n 0) a b) s t := by
  have hkeep : ∀ u i, ((elementwise n dst w srcs f).commit u i).cfg = u.cfg ∧
      ((elementwise n dst w srcs f).commit u i).pc = u.pc ∧
      ((elementwise n dst w srcs f).commit u i).vstart = u.vstart :=
    fun u i => (commitElems_written dst w n i (f u i) u).keeps
  refine execPrefixed_runs isvec p _ _ s (fun k hk he => ?_) (fun k _ _ u _ => commitElems_written ..) hkeep
  have hu := stateBefore_keeps (P := fun u => u.cfg = s.cfg) (enabled p s) (elementwise n dst w srcs f)
    (firstIndex isvec s) s rfl (fun u i hu => (hkeep u i).1.trans hu) k
  generalize stateBefore (enabled p s) (elementwise n dst w srcs f) (firstIndex isvec s) s k = u at hu
  refine Stop.orElse_none.2 ⟨firstStop_none.2 fun j hj => ?_, firstStop_none.2 fun j hj => ?_⟩
  · rw [Nat.zero_add]
    clear hkeep
    induction srcs with
    | nil => rfl
    | cons x rest ih =>
      refine Stop.orElse_none.2 ⟨?_, ih fun y hy => hs y (List.mem_cons_of_mem _ hy)⟩
      rw [(hs x List.mem_cons_self).overrun_none hk he hu hj]; rfl
  · rw [Nat.zero_add, hd.overrun_none hk he hu hj]; rfl

/-! ## Loads (rules R162 to R164) -/

/-- A data operand's load commits what `LoadsElems` says. -/
theorem loadOp_written (file : RegFile) (w : Nat) (o : MemOps) (s a : State) (hc : a.cfg = s.cfg) (i : Nat) :
    LoadsElems file w o s i a ((loadOp (dataOpd file o s) w o s).commit a i) := by
  have h : ∀ j, (effAddr a.cfg.xbits o s a o.vtp.svlen.count (w / 8) i j).toNat = elemAddr w o s a i j := by
    intro j; rw [hc]; rfl
  have := putEach_put_written (dataOpd file o s) w o.vtp.svlen.count i
    (fun j => a.memGet (effAddr a.cfg.xbits o s a o.vtp.svlen.count (w / 8) i j).toNat w) a
  simp only [h] at this
  unfold LoadsElems loadOp
  simp only [h]
  exact this

theorem loadOp_keeps (file : RegFile) (w : Nat) (o : MemOps) (s u : State) (i : Nat) :
    ((loadOp (dataOpd file o s) w o s).commit u i).cfg = u.cfg ∧
      ((loadOp (dataOpd file o s) w o s).commit u i).pc = u.pc ∧
      ((loadOp (dataOpd file o s) w o s).commit u i).vstart = u.vstart :=
  (putEach_put_written (dataOpd file o s) w o.vtp.svlen.count i
    (fun j => u.memGet (effAddr u.cfg.xbits o s u o.vtp.svlen.count (w / 8) i j).toNat w) u).keeps

theorem loadBefore_cfg (file : RegFile) (w : Nat) (o : MemOps) (s : State) (k : Nat) :
    (loadBefore file w o s k).cfg = s.cfg :=
  stateBefore_keeps (P := fun u => u.cfg = s.cfg) _ _ _ s rfl
    (fun u i hu => (loadOp_keeps file w o s u i).1.trans hu) k

/-- The address vector's element stops nothing where it fits. -/
theorem AddrFits.none {o : MemOps} {s u : State} {i : Nat} (h : AddrFits o s i) (hc : u.cfg = s.cfg) :
    (if addrIsV s.cfg o then ((addrOpd o).overrun u s.cfg.xbits 1 i 0).map Stop.modelFault else none) = none := by
  split
  · rename_i hv
    rw [(Opd.overrun_none _ _ _ _ _ _).2]
    · rfl
    · have e : (addrOpd o).index 1 i 0 = i := by simp [addrOpd, xOpd, Opd.index]
      rw [State.elemByte_congr hc, State.rb_congr hc, e]
      exact h hv
  · rfl

/-- Where an index is ready, the load checks pass. -/
theorem loadOp_check (file : RegFile) (w : Nat) (o : MemOps) (s : State) (k : Nat)
    (hk : k < indexCount (memIsVec s) s)
    (he : enabled o.vtp.pred s (firstIndex (memIsVec s) s + k) = true)
    (hr : LoadReady file w o s k)
    (hd : OpdFits (dataOpd file o s) w o.vtp.svlen.count (memIsVec s) o.vtp.pred s) :
    (loadOp (dataOpd file o s) w o s).check (loadBefore file w o s k) (firstIndex (memIsVec s) s + k) = none := by
  obtain ⟨ha, hr⟩ := hr he
  have hc := loadBefore_cfg file w o s k
  refine Stop.orElse_none.2 ⟨firstStop_none.2 fun j hj => ?_, firstStop_none.2 fun j hj => ?_⟩
  · rw [Nat.zero_add]
    unfold loadStop
    rw [hc]
    refine Stop.orElse_none.2 ⟨ha.none hc, ?_⟩
    have := hr j hj
    rw [State.checkAccess_congr _ _ hc]
    unfold elemAddr at this
    rw [this]; rfl
  · rw [Nat.zero_add, hd.overrun_none hk he hc hj]; rfl

/-- A prefixed load whose indices are ready completes (rules R138, R164). -/
theorem svLoad_runs (file : RegFile) (w : Nat) (o : MemOps) (s : State)
    (hr : ∀ k < indexCount (memIsVec s) s, LoadReady file w o s k)
    (hd : OpdFits (dataOpd file o s) w o.vtp.svlen.count (memIsVec s) o.vtp.pred s) :
    ∃ t, svLoad file w o s = .next t ∧ RunsOver (memIsVec s) o.vtp.pred (LoadsElems file w o s) s t :=
  execPrefixed_runs _ _ _ _ s (fun k hk he => loadOp_check file w o s k hk he (hr k hk) hd)
    (fun k _ _ u hu => loadOp_written file w o s u (hu ▸ loadBefore_cfg file w o s k) _)
    (loadOp_keeps file w o s)

/-! ## Stores (rules R162 to R165) -/

/-- Writing elements to memory one after the other changes memory and nothing else. -/
theorem putEach_memPut_eq (w : Nat) (ea : Nat → Nat) (v : Nat → BitVec w) (m j : Nat) (s : State) :
    putEach (fun t j => t.memPut (ea j) w (v j)) m j s =
      { s with mem := (putEach (fun t j => t.memPut (ea j) w (v j)) m j s).mem } := by
  induction m generalizing j s with
  | zero => rfl
  | succ m ih => rw [putEach, ih]; rfl

/-- What the memory writes of one sub-vector do, its addresses being distinct. -/
theorem putEach_memPut_stored (w n : Nat) (ea : Nat → Nat) (v : Nat → BitVec w) (s : State) (hw : w / 8 ≤ 2 ^ 32)
    (hd : ∀ j < n, ∀ m < w / 8, ∀ j' < n, ∀ m' < w / 8,
      (ea j + m) % 2 ^ s.cfg.xbits = (ea j' + m') % 2 ^ s.cfg.xbits → j = j') :
    ElemsStored w n ea v s (putEach (fun t j => t.memPut (ea j) w (v j)) n 0 s) := by
  suffices H : ∀ q j u, u.cfg = s.cfg → j + q = n →
      (∀ i < n, j ≤ i → ∀ m < w / 8, (putEach (fun t j => t.memPut (ea j) w (v j)) q j u).byteAt
        ((ea i + m) % 2 ^ s.cfg.xbits) = (v i).extractLsb' (8 * m) 8) ∧
      (∀ b, (∀ i < n, j ≤ i → ∀ m < w / 8, (ea i + m) % 2 ^ s.cfg.xbits ≠ b) →
        (putEach (fun t j => t.memPut (ea j) w (v j)) q j u).byteAt b = u.byteAt b) by
    obtain ⟨h1, h2⟩ := H n 0 s rfl (by omega)
    exact ⟨fun j hj m hm => h1 j hj (Nat.zero_le j) m hm,
      fun b hb => h2 b fun i hi _ m hm => hb i hi m hm, putEach_memPut_eq ..⟩
  intro q
  induction q with
  | zero => intro j u hu hj; exact ⟨fun i hi hij => by omega, fun b _ => rfl⟩
  | succ q ih =>
    intro j u hu hj
    obtain ⟨h1, h2⟩ := ih (j + 1) (u.memPut (ea j) w (v j)) hu (by omega)
    have hs : u.span = 2 ^ s.cfg.xbits := by unfold State.span; rw [hu]
    constructor
    · intro i hi hij m hm
      rw [putEach]
      rcases Nat.eq_or_lt_of_le hij with rfl | hlt
      · rw [h2 _ fun i' hi' hji m' hm' e => by have := hd i' hi' m' hm' j hi m hm e; omega]
        have h := u.byteAt_memPut_at (ea j) w (v j) m hm hw
        unfold State.wrapAddr at h
        rw [hs] at h
        rw [h]
        apply BitVec.eq_of_toNat_eq
        rw [BitVec.toNat_ofNat, BitVec.extractLsb'_toNat, Nat.shiftRight_eq_div_pow]
      · exact h1 i hi (by omega) m hm
    · intro b hb
      rw [putEach, h2 b fun i hi hij m hm => hb i hi (by omega) m hm]
      refine u.byteAt_memPut_other _ _ _ _ fun m hm => ?_
      unfold State.wrapAddr
      rw [hs]
      exact hb j (by omega) (le_refl j) m hm

/-- A state that differs in memory and bookkeeping only. -/
theorem Opd.get_congr (o : Opd) {s t : State} (hc : t.cfg = s.cfg) (hr : t.regs o.file = s.regs o.file)
    (w n i j : Nat) : o.get t w n i j = o.get s w n i j := State.elemGet_congr s t o.file hc hr ..

theorem effAddr_congr (w : Nat) (o : MemOps) {s0 s t : State} (hc : t.cfg = s.cfg) (hx : t.xregs = s.xregs)
    (n e i j : Nat) : effAddr w o s0 t n e i j = effAddr w o s0 s n e i j := by
  unfold effAddr
  split
  · rw [Opd.get_congr (addrOpd o) hc hx]
  · rfl

/-- Addresses of one sub-vector's elements rise by the element size, modulo 2^XLEN (rule R163). -/
theorem elemAddr_add (w : Nat) (o : MemOps) (s u : State) (i j : Nat) :
    elemAddr w o s u i j = (elemAddr w o s u i 0 + j * (w / 8)) % 2 ^ s.cfg.xbits := by
  unfold elemAddr effAddr
  rw [BitVec.toNat_add, BitVec.toNat_add, BitVec.toNat_ofNat, BitVec.toNat_ofNat]
  simp only [Nat.zero_mul, Nat.zero_mod, Nat.add_zero, Nat.mod_add_mod, Nat.add_mod_mod]

/-- The addresses of one sub-vector are distinct. -/
theorem elemAddr_distinct (w : Nat) (o : MemOps) (s u : State) (i n : Nat) (hn : n * (w / 8) ≤ 2 ^ 32) :
    ∀ j < n, ∀ m < w / 8, ∀ j' < n, ∀ m' < w / 8,
      (elemAddr w o s u i j + m) % 2 ^ s.cfg.xbits = (elemAddr w o s u i j' + m') % 2 ^ s.cfg.xbits → j = j' := by
  intro j hj m hm j' hj' m' hm' h
  rw [elemAddr_add, elemAddr_add (j := j'), Nat.mod_add_mod, Nat.mod_add_mod, Nat.add_assoc, Nat.add_assoc] at h
  have hb : ∀ a < n, ∀ c < w / 8, a * (w / 8) + c < 2 ^ 32 := fun a ha c hc => by
    have h1 := mul_gap (c := w / 8) ha
    omega
  have e := s.wrapAddr_inj (elemAddr w o s u i 0) (2 ^ 32) (le_refl _) _ (hb j hj m hm) _ (hb j' hj' m' hm') h
  have h1 : (j * (w / 8) + m) / (w / 8) = j := by
    rw [Nat.mul_comm, Nat.mul_add_div (by omega), Nat.div_eq_of_lt hm, Nat.add_zero]
  have h2 : (j' * (w / 8) + m') / (w / 8) = j' := by
    rw [Nat.mul_comm, Nat.mul_add_div (by omega), Nat.div_eq_of_lt hm', Nat.add_zero]
  rw [← h1, e, h2]

/-- What holds of every state of a store's run: it differs from the start in memory only. -/
def OnlyMemOf (s u : State) : Prop := u = { s with mem := u.mem }

theorem storeOp_keeps (src : Opd) (w : Nat) (o : MemOps) (s u : State) (i : Nat) (h : OnlyMemOf s u) :
    OnlyMemOf s ((storeOp src w o s).commit u i) := by
  have hx : ∀ a b c : State, b = { a with mem := b.mem } → c = { b with mem := c.mem } →
      c = { a with mem := c.mem } := by
    intro a b c hb hc
    rw [hc, hb]
  exact hx _ _ _ h (putEach_memPut_eq w _ _ _ 0 u)

/-- The state before an index of a store differs from the start in memory only. -/
theorem storeBefore_onlyMem (src : Opd) (w : Nat) (o : MemOps) (en : Nat → Bool) (lo : Nat) (s : State) (k : Nat) :
    OnlyMemOf s (stateBefore en (storeOp src w o s) lo s k) :=
  stateBefore_keeps (P := OnlyMemOf s) en _ lo s rfl (fun u i h => storeOp_keeps src w o s u i h) k

/-- A sub-vector has at most four elements (rule R86). -/
theorem svlen_count_le (l : SvLen) : l.count ≤ 4 := by cases l <;> decide

/-- A store's commit writes what `StoresElems` says. -/
theorem storeOp_stored (file : RegFile) (w : Nat) (o : MemOps) (s a : State) (ha : OnlyMemOf s a) (hw : w ≤ 128)
    (i : Nat) : StoresElems file w o s i a ((storeOp (dataOpd file o s) w o s).commit a i) := by
  have hc : a.cfg = s.cfg := by rw [ha]
  have hx : a.xregs = s.xregs := by rw [ha]
  have hr : ∀ f, a.regs f = s.regs f := fun f => by rw [ha]; cases f <;> rfl
  have h1 : ∀ j, (effAddr a.cfg.xbits o s a o.vtp.svlen.count (w / 8) i j).toNat = elemAddr w o s s i j := by
    intro j
    rw [effAddr_congr _ _ hc hx, hc]; rfl
  have h2 : ∀ j, (dataOpd file o s).get a w o.vtp.svlen.count i j = (dataOpd file o s).get s w o.vtp.svlen.count i j :=
    fun j => Opd.get_congr _ hc (hr _) ..
  have hn : o.vtp.svlen.count * (w / 8) ≤ 2 ^ 32 :=
    le_trans (Nat.mul_le_mul (svlen_count_le o.vtp.svlen) (show w / 8 ≤ 16 by omega)) (by norm_num)
  unfold StoresElems storeOp
  simp only [h1, h2]
  refine putEach_memPut_stored w _ _ _ a (by omega) ?_
  rw [hc]
  exact elemAddr_distinct w o s s i _ hn

/-- Where an index is ready, the store checks pass. -/
theorem storeOp_check (file : RegFile) (w : Nat) (o : MemOps) (s : State) (k : Nat)
    (hk : k < indexCount (memIsVec s) s)
    (he : enabled o.vtp.pred s (firstIndex (memIsVec s) s + k) = true)
    (hr : StoreReady w o s k)
    (hd : OpdFits (dataOpd file o s) w o.vtp.svlen.count (memIsVec s) o.vtp.pred s) {u : State} (hu : OnlyMemOf s u) :
    (storeOp (dataOpd file o s) w o s).check u (firstIndex (memIsVec s) s + k) = none := by
  obtain ⟨ha, hr⟩ := hr he
  have hc : u.cfg = s.cfg := by rw [hu]
  have hx : u.xregs = s.xregs := by rw [hu]
  refine Stop.orElse_none.2 ⟨firstStop_none.2 fun j hj => ?_, firstStop_none.2 fun j hj => ?_⟩
  · rw [Nat.zero_add]
    unfold storeStop
    rw [hc]
    refine Stop.orElse_none.2 ⟨ha.none hc, Stop.orElse_none.2 ⟨?_, ?_⟩⟩
    · rw [hd.overrun_none hk he hc hj]; rfl
    · have := (hr j hj).1
      unfold elemAddr at this
      rw [State.checkAccess_congr _ _ hc, effAddr_congr _ _ hc hx, this]; rfl
  · rw [Nat.zero_add]
    have := (hr j hj).2
    rw [elemAddr, ← hc, ← State.hitsText_congr _ _ hc, ← effAddr_congr _ o hc hx] at this
    exact if_neg (by rw [this]; decide)

/-- A prefixed store whose indices are ready completes (rules R138, R165). -/
theorem svStore_runs (file : RegFile) (w : Nat) (o : MemOps) (s : State) (hw : w ≤ 128)
    (hr : ∀ k < indexCount (memIsVec s) s, StoreReady w o s k)
    (hd : OpdFits (dataOpd file o s) w o.vtp.svlen.count (memIsVec s) o.vtp.pred s) :
    ∃ t, svStore file w o s = .next t ∧ RunsOver (memIsVec s) o.vtp.pred (StoresElems file w o s) s t := by
  refine execPrefixed_runs _ _ _ _ s (fun k hk he => ?_) (fun k _ _ u hu => ?_) (fun u i => ?_)
  · exact storeOp_check file w o s k hk he (hr k hk) hd (storeBefore_onlyMem ..)
  · exact storeOp_stored file w o s u (hu ▸ storeBefore_onlyMem ..) hw _
  · have : OnlyMemOf u ((storeOp (dataOpd file o s) w o s).commit u i) := putEach_memPut_eq w _ _ _ 0 u
    have h1 := congrArg State.cfg this
    have h2 := congrArg State.pc this
    have h3 := congrArg State.vstart this
    exact ⟨h1, h2, h3⟩

end Sys2Proof.Machine
end

