-- ==== Sys2Proof/Laws/Shape.lean ====
section
/-! SUPPORT. Every prefixed computation (P48R to P48FR4), said once in the terms of its `Shape`: where the machine
  does not
have it, it is IllegalInstruction; else it runs the element-wise sub-vector operation over the shape's operands. -/

namespace Sys2Proof.Machine

/-- A rounding mode is to be had exactly where `canRound` says so. -/
theorem roundingMode_cases (s : State) (rm : Rm) :
    (canRound s rm = true ∧ ∃ m, roundingMode s rm = some m) ∨ (canRound s rm = false ∧ roundingMode s rm = none) := by
  cases rm with
  | fixed m => exact .inl ⟨rfl, m, rfl⟩
  | dyn =>
    have := s.frm.isLt
    unfold canRound roundingMode
    interval_cases s.frm.toNat <;> first | exact .inl ⟨rfl, _, rfl⟩ | exact .inr ⟨rfl, rfl⟩

/-- The outcome is the run of the element-wise sub-vector operation over the operands of the shape, its first the
destination. -/
def RunsShape (out : Out) (s : State) (h : Shape) : Prop :=
  ∃ dst w srcs f, h.opds = (dst, w) :: srcs ∧ out = execPrefixed h.isVec h.pred (elementwise h.svlen dst w srcs f) s

/-- What a prefixed computation does, by its shape. -/
def DoesShape (out : Out) (s : State) (i : Instr) (h : Shape) : Prop :=
  (h.legal = false → Illegal out s i) ∧ (h.legal = true → RunsShape out s h)

theorem RunsShape.does {out : Out} {s : State} {i : Instr} {h : Shape} (hl : h.legal = true) (hr : RunsShape out s h) :
    DoesShape out s i h :=
  ⟨fun hf => (by rw [hl] at hf; cases hf), fun _ => hr⟩

theorem RunsShape.legally {b : Bool} {out : Out} {s : State} {i : Instr} {h : Shape} (hl : h.legal = b)
    (hr : RunsShape out s h) : DoesShape (legally b i s out) s i h := by
  subst hl
  refine ⟨fun hf => ?_, fun ht => ?_⟩
  · rw [hf]; exact raise_raises ..
  · rw [ht]; exact hr

theorem RunsShape.rounded {b : Bool} {rm : Rm} {k : RoundMode → Out} {s : State} {i : Instr} {h : Shape}
    (hl : h.legal = (b && canRound s rm)) (hr : ∀ m, RunsShape (k m) s h) :
    DoesShape (Machine.legally b i s (Machine.rounded rm i s k)) s i h := by
  unfold Machine.rounded
  rcases roundingMode_cases s rm with ⟨h1, m, h2⟩ | ⟨h1, h2⟩
  · rw [h2]; exact RunsShape.legally (by rw [hl, h1, Bool.and_true]) (hr m)
  · rw [h2]
    refine ⟨fun _ => ?_, fun ht => ?_⟩
    · cases b <;> exact raise_raises ..
    · rw [hl, h1, Bool.and_false] at ht; cases ht

/-! ## The forms -/

theorem ROps_shape_isVec (o : ROps) (l : Bool) (s : State) : (o.shape l s).isVec = (o.vs1 || o.vs2) := by
  simp [Shape.isVec, ROps.shape, xOpd]

theorem IOps_shape_isVec (o : IOps) (s : State) : (o.shape s).isVec = (o.vd || o.vs1) := by
  simp [Shape.isVec, IOps.shape, xOpd]

theorem ShOps_shape_isVec (o : ShOps) (s : State) : (o.shape s).isVec = (o.vd || o.vs1) := by
  simp [Shape.isVec, ShOps.shape, xOpd]

theorem UOps_shape_isVec (o : UOps) (s : State) : (o.shape s).isVec = o.vd := by
  simp [Shape.isVec, UOps.shape, xOpd]

theorem FrOps_shape_isVec (o : FrOps) (file : RegFile) (wd : Nat) (l : Bool) (s : State) :
    (o.shape file wd l s).isVec = (o.vs1 || o.vs2) := by
  simp [Shape.isVec, FrOps.shape, fOpd, FrOps.dst]

theorem FiOps_shape_isVec (o : FiOps) (fd : RegFile) (wd : Nat) (fs : RegFile) (ws : Nat) (l : Bool) (s : State) :
    (o.shape fd wd fs ws l s).isVec = (o.vd || o.vs1) := by
  simp [Shape.isVec, FiOps.shape]

theorem Fr4Ops_shape_isVec (o : Fr4Ops) (l : Bool) (s : State) : (o.shape l s).isVec = (o.vs2 || o.vs3) := by
  simp [Shape.isVec, Fr4Ops.shape, fOpd]

theorem svIntR_shape (f : (w : Nat) → BitVec w → BitVec w → BitVec w) (o : ROps) (l : Bool) (s : State) :
    RunsShape (svIntR f o s) s (o.shape l s) :=
  ⟨_, _, _, _, rfl, by rw [ROps_shape_isVec]; rfl⟩

theorem svIntI_shape (g : (w : Nat) → BitVec w → BitVec w → BitVec w) (o : IOps) (s : State) :
    RunsShape (svIntI g o s) s (o.shape s) :=
  ⟨_, _, _, _, rfl, by rw [IOps_shape_isVec]; rfl⟩

theorem svShift_shape (g : (w : Nat) → Nat → BitVec w → BitVec w) (o : ShOps) (s : State) :
    RunsShape (svShift g o s) s (o.shape s) :=
  ⟨_, _, _, _, rfl, by rw [ShOps_shape_isVec]; rfl⟩

theorem svUpper_shape (v : (xlen : Nat) → BitVec xlen) (o : UOps) (s : State) :
    RunsShape (svUpper v o s) s (o.shape s) :=
  ⟨_, _, _, _, rfl, by rw [UOps_shape_isVec]; rfl⟩

theorem svFr_shape (file : RegFile) (wd : Nat) (o : FrOps) (f : BitVec o.fmt.width → BitVec o.fmt.width → Fp.Res wd)
    (l : Bool) (s : State) : RunsShape (svFr file wd o f s) s (o.shape file wd l s) :=
  ⟨_, _, _, _, rfl, by rw [FrOps_shape_isVec]; rfl⟩

theorem svFi_shape (fd : RegFile) (wd : Nat) (fs : RegFile) (ws : Nat) (o : FiOps) (f : BitVec ws → Fp.Res wd)
    (l : Bool) (s : State) : RunsShape (svFi fd wd fs ws o f s) s (o.shape fd wd fs ws l s) :=
  ⟨_, _, _, _, rfl, by rw [FiOps_shape_isVec]; rfl⟩

theorem svFr4_shape (o : Fr4Ops)
    (f : BitVec o.fmt.width → BitVec o.fmt.width → BitVec o.fmt.width → Fp.Res o.fmt.width) (l : Bool) (s : State) :
    RunsShape (svFr4 o f s) s (o.shape l s) :=
  ⟨_, _, _, _, rfl, by rw [Fr4Ops_shape_isVec]; rfl⟩

/-- Every prefixed computation does what its shape says. -/
theorem exec_of_shape {i : Instr} {s : State} {h : Shape} (hs : i.shape s = some h) : DoesShape (exec i s) s i h := by
  cases i with
  | svAdd o | svSub o | svSll o | svSlt o | svSltu o | svXor o | svSrl o | svSra o | svOr o | svAnd o
  | svAddw o | svSubw o | svSllw o | svSrlw o | svSraw o =>
    injection hs with hs; subst hs
    simp only [exec, execSvAdd, execSvSub, execSvSll, execSvSlt, execSvSltu, execSvXor, execSvSrl, execSvSra,
      execSvOr, execSvAnd, execSvAddw, execSvSubw, execSvSllw, execSvSrlw, execSvSraw]
    exact RunsShape.does rfl (svIntR_shape ..)
  | svMul o | svMulh o | svMulhsu o | svMulhu o | svDiv o | svDivu o | svRem o | svRemu o | svMulw o
  | svDivw o | svDivuw o | svRemw o | svRemuw o =>
    injection hs with hs; subst hs
    simp only [exec, execSvMul, execSvMulh, execSvMulhsu, execSvMulhu, execSvDiv, execSvDivu, execSvRem, execSvRemu,
      execSvMulw, execSvDivw, execSvDivuw, execSvRemw, execSvRemuw]
    exact RunsShape.legally rfl (svIntR_shape ..)
  | svAddi o | svSlti o | svSltiu o | svXori o | svOri o | svAndi o | svAddiw o =>
    injection hs with hs; subst hs
    simp only [exec, execSvAddi, execSvSlti, execSvSltiu, execSvXori, execSvOri, execSvAndi, execSvAddiw]
    exact RunsShape.does rfl (svIntI_shape ..)
  | svSlli o | svSrli o | svSrai o | svSlliw o | svSrliw o | svSraiw o =>
    injection hs with hs; subst hs
    simp only [exec, execSvSlli, execSvSrli, execSvSrai, execSvSlliw, execSvSrliw, execSvSraiw]
    exact RunsShape.legally rfl (svShift_shape ..)
  | svLui o | svAuipc o =>
    injection hs with hs; subst hs
    simp only [exec, execSvLui, execSvAuipc]
    exact RunsShape.does rfl (svUpper_shape ..)
  | svFaddFmt rm o | svFsubFmt rm o | svFmulFmt rm o | svFdivFmt rm o =>
    injection hs with hs; subst hs
    simp only [exec, execSvFaddFmt, execSvFsubFmt, execSvFmulFmt, execSvFdivFmt]
    exact RunsShape.rounded rfl (fun m => svFr_shape ..)
  | svFsgnjFmt o | svFsgnjnFmt o | svFsgnjxFmt o | svFminFmt o | svFmaxFmt o | svFeqFmt o | svFltFmt o | svFleFmt o =>
    injection hs with hs; subst hs
    simp only [exec, execSvFsgnjFmt, execSvFsgnjnFmt, execSvFsgnjxFmt, execSvFminFmt, execSvFmaxFmt, execSvFeqFmt,
      execSvFltFmt, execSvFleFmt]
    exact RunsShape.legally (Bool.and_true _) (svFr_shape ..)
  | svFsqrtFmt rm o | svFcvtWFmt rm o | svFcvtWuFmt rm o | svFcvtFmtW rm o | svFcvtFmtWu rm o =>
    injection hs with hs; subst hs
    simp only [exec, execSvFsqrtFmt, execSvFcvtWFmt, execSvFcvtWuFmt, execSvFcvtFmtW, execSvFcvtFmtWu]
    exact RunsShape.rounded rfl (fun m => svFi_shape ..)
  | svFcvtLFmt rm o | svFcvtLuFmt rm o | svFcvtFmtL rm o | svFcvtFmtLu rm o | svFcvtFmtFmt src rm o =>
    injection hs with hs; subst hs
    simp only [exec, execSvFcvtLFmt, execSvFcvtLuFmt, execSvFcvtFmtL, execSvFcvtFmtLu, execSvFcvtFmtFmt]
    exact RunsShape.rounded (by simp only [FiOps.shape, fmtFits, Bool.and_assoc]) (fun m => svFi_shape ..)
  | svFmvXFmt o | svFmvFmtX o =>
    injection hs with hs; subst hs
    simp only [exec, execSvFmvXFmt, execSvFmvFmtX]
    exact RunsShape.legally rfl (svFi_shape ..)
  | svFclassFmt o =>
    injection hs with hs; subst hs
    simp only [exec, execSvFclassFmt]
    exact RunsShape.legally (Bool.and_true _) (svFi_shape ..)
  | svFmaddFmt rm o | svFmsubFmt rm o | svFnmsubFmt rm o | svFnmaddFmt rm o =>
    injection hs with hs; subst hs
    simp only [exec, execSvFmaddFmt, execSvFmsubFmt, execSvFnmsubFmt, execSvFnmaddFmt]
    exact RunsShape.rounded rfl (fun m => svFr4_shape ..)
  | _ => exact nomatch (show none = some h from hs)

end Sys2Proof.Machine
end

