-- ==== Sys2Proof/Tests/Slice0.lean ====
section
/-! SUPPORT. Tests: ill-formed terms are refused, words written out from the encoding rules decode to their
instructions, single steps end as the spec's vectors (95_test_vectors.md) say, and for every statement of
Obligations.lean that has hypotheses a concrete state meets them. -/

namespace Sys2Proof.Tests

open Machine

-- One theorem after the other: each waits for the kernel, and a waiting theorem holds a thread.
set_option Elab.async false

/-! ## Well-formedness: one ill-formed term for each check -/

/-- The encoding of `setvl` used below. -/
def enc : SetvlEncoding := SetvlEncoding.custom0

/-- vitp6 cannot name x10 or x11 (rule R93). -/
theorem test_wf_pred :
    Instr.wellFormed enc (.svAdd ⟨0, 0, 0, true, true, ⟨.b, .on .x10 true, .one⟩⟩) = false ∧
    Instr.wellFormed enc (.svAddi ⟨0, 0, 0, true, true, ⟨.b, .on .x11 false, .one⟩⟩) = false ∧
    Instr.wellFormed enc (.svSlli ⟨0, 0, 0, true, true, ⟨.b, .on .x10 false, .one⟩⟩) = false ∧
    Instr.wellFormed enc (.svLui ⟨0, 0, true, ⟨.b, .on .x11 true, .one⟩⟩) = false ∧
    Instr.wellFormed enc (.svAdd ⟨0, 0, 0, true, true, ⟨.b, .on .x9 true, .one⟩⟩) = true := by decide

/-- An FP-to-FP conversion has two different formats (rules R289, R582). -/
theorem test_wf_conversion :
    Instr.wellFormed enc (.svFcvtFmtFmt .s .dyn ⟨.s, 0, 0, true, true, ⟨.always, .one⟩⟩) = false ∧
    Instr.wellFormed enc (.fcvtFmtFmt .d .d .dyn 0 0) = false ∧
    Instr.wellFormed enc (.fcvtFmtFmt .d .s .dyn 0 0) = true := by decide

/-- The operands of `setvl` are those of its word, and the word has the pattern and the length. -/
theorem test_wf_setvl :
    Instr.wellFormed enc (.setvl 29 5 ⟨8, 0x00828E8B⟩) = true ∧ Instr.wellFormed enc (.setvl 29 5 ⟨9, 0x00828E8B⟩) = false ∧
    Instr.wellFormed enc (.setvl 28 5 ⟨8, 0x00828E8B⟩) = false ∧ Instr.wellFormed enc (.setvl 29 5 ⟨8, 0x00829E8B⟩) = false ∧
    Instr.wellFormed enc (.setvl 29 5 ⟨8, 0x100828E8B⟩) = false := by decide

/-! ## Decoding -/

/-- Decoding: loads and stores (rules R74, R75, R167 to R185); words assembled from the rules' bit positions. -/
theorem test_decode_svMem : ∀ p ∈ ([
    (0x26AE8A81001F, .svLb ⟨21, 61, 0x26A, .c, ⟨.always, .four⟩⟩),
    (0x0C651D01149F, .svLh ⟨26, 42, 0xC6, .x, ⟨.on .x9 false, .one⟩⟩),
    (0x893AA281271F, .svLw ⟨5, 53, 0x893, .si 0, ⟨.on .x9 true, .two⟩⟩),
    (0x954C3380399F, .svLd ⟨7, 24, 0x954, .si 1, ⟨.on .x10 false, .three⟩⟩),
    (0x81FDC2014A1F, .svLbu ⟨4, 59, 0x81F, .si 2, ⟨.on .x10 true, .four⟩⟩),
    (0x1611D7005C9F, .svLhu ⟨14, 3, 0x161, .si 3, ⟨.on .x11 false, .one⟩⟩),
    (0x11FDEE006F1F, .svLwu ⟨28, 27, 0x11F, .si 4, ⟨.on .x11 true, .two⟩⟩),
    (0x8D231804719F, .svFlh ⟨16, 6, 0x8D2, .si 5, ⟨.always, .three⟩⟩),
    (0xD3B22E04841F, .svFlw ⟨28, 4, 0xD3B, .s 0, ⟨.on .x9 false, .four⟩⟩),
    (0xF2943286969F, .svFld ⟨37, 8, 0xF29, .s 1, ⟨.on .x9 true, .one⟩⟩),
    (0xA0A4C785A91F, .svFlq ⟨15, 41, 0xA0A, .s 2, ⟨.on .x10 false, .two⟩⟩),
    (0x0E6E8F23BB9F, .svSb ⟨38, 61, 0xFE, .s 3, ⟨.on .x10 true, .three⟩⟩),
    (0x64531CA3CC1F, .svSh ⟨37, 38, 0x659, .s 4, ⟨.on .x11 false, .four⟩⟩),
    (0x384FA5235E9F, .svSw ⟨4, 63, 0x38A, .s 5, ⟨.on .x11 true, .one⟩⟩),
    (0xDA323EA3611F, .svSd ⟨3, 36, 0xDBD, .s 6, ⟨.always, .two⟩⟩),
    (0x6A999AA6759F, .svFsh ⟨9, 19, 0x6B5, .s 7, ⟨.on .x9 false, .three⟩⟩),
    (0x1EA1A1A5061F, .svFsw ⟨10, 35, 0x1E3, .c, ⟨.on .x9 true, .four⟩⟩),
    (0x8E5A3BA4989F, .svFsd ⟨37, 20, 0x8F7, .x, ⟨.on .x10 false, .one⟩⟩),
    (0x2F5642A5AB1F, .svFsq ⟨53, 44, 0x2E5, .si 0, ⟨.on .x10 true, .two⟩⟩)] :
      List (Nat × Instr)), decodeTableWord 48 p.1 = some p.2 := by
  decide +kernel

/-- Decoding: P48R (rules R76, R196 to R223); words assembled from the rules' bit positions. -/
theorem test_decode_svR : ∀ p ∈ ([
    (0x005303B1C19F, .svAdd ⟨7, 38, 37, false, true, ⟨.b, .always, .three⟩⟩),
    (0x405702330C1F, .svSub ⟨36, 46, 5, false, false, ⟨.h, .on .x9 false, .four⟩⟩),
    (0x00361033F69F, .svSll ⟨32, 44, 35, true, true, ⟨.w, .on .x9 true, .one⟩⟩),
    (0x01EE2333791F, .svSlt ⟨38, 60, 30, true, true, ⟨.xl, .always, .two⟩⟩),
    (0x0126B631A59F, .svSltu ⟨12, 45, 50, true, false, ⟨.b, .on .x9 false, .three⟩⟩),
    (0x01904133EE1F, .svXor ⟨34, 32, 57, true, true, ⟨.h, .on .x9 true, .four⟩⟩),
    (0x005FD3B3709F, .svSrl ⟨39, 63, 5, true, true, ⟨.w, .always, .one⟩⟩),
    (0x40AB58B25D1F, .svSra ⟨49, 22, 10, false, true, ⟨.xl, .on .x9 false, .two⟩⟩),
    (0x0055EF33079F, .svOr ⟨62, 43, 5, false, false, ⟨.b, .on .x9 true, .three⟩⟩),
    (0x015AFCB3681F, .svAnd ⟨57, 53, 21, true, true, ⟨.h, .always, .four⟩⟩),
    (0x03430033B49F, .svMul ⟨32, 38, 52, true, false, ⟨.w, .on .x9 false, .one⟩⟩),
    (0x03F91EB25F1F, .svMulh ⟨61, 18, 31, false, true, ⟨.xl, .on .x9 true, .two⟩⟩),
    (0x0346A7B3019F, .svMulhsu ⟨47, 45, 20, false, false, ⟨.b, .always, .three⟩⟩),
    (0x033EBAB20C1F, .svMulhu ⟨53, 29, 19, false, false, ⟨.h, .on .x9 false, .four⟩⟩),
    (0x03D14BB0F69F, .svDiv ⟨23, 2, 61, true, true, ⟨.w, .on .x9 true, .one⟩⟩),
    (0x02405431791F, .svDivu ⟨8, 32, 4, true, true, ⟨.xl, .always, .two⟩⟩),
    (0x03A86832259F, .svRem ⟨48, 16, 26, true, false, ⟨.b, .on .x9 false, .three⟩⟩),
    (0x03D5F3306E1F, .svRemu ⟨6, 11, 29, true, true, ⟨.h, .on .x9 true, .four⟩⟩),
    (0x01CA84B9509F, .svAddw ⟨9, 53, 28, false, true, ⟨.w, .always, .one⟩⟩),
    (0x40CB8DB89D1F, .svSubw ⟨27, 23, 44, false, false, ⟨.xl, .on .x9 false, .two⟩⟩),
    (0x00C31538279F, .svSllw ⟨10, 6, 12, true, false, ⟨.b, .on .x9 true, .three⟩⟩),
    (0x016050B9C81F, .svSrlw ⟨1, 32, 54, false, true, ⟨.h, .always, .four⟩⟩),
    (0x41B550B8149F, .svSraw ⟨1, 10, 27, false, false, ⟨.w, .on .x9 false, .one⟩⟩),
    (0x029E8AB91F1F, .svMulw ⟨21, 61, 9, false, false, ⟨.xl, .on .x9 true, .two⟩⟩),
    (0x02C5443BC19F, .svDivw ⟨40, 42, 44, false, true, ⟨.b, .always, .three⟩⟩),
    (0x03D95C3B8C1F, .svDivuw ⟨56, 50, 61, false, false, ⟨.h, .on .x9 false, .four⟩⟩),
    (0x03AD6D38769F, .svRemw ⟨26, 26, 26, true, true, ⟨.w, .on .x9 true, .one⟩⟩),
    (0x02D27D38791F, .svRemuw ⟨26, 4, 13, true, true, ⟨.xl, .always, .two⟩⟩)] :
      List (Nat × Instr)), decodeTableWord 48 p.1 = some p.2 := by
  decide +kernel

/-- Decoding: P48I and P48U (rules R77, R78, R95, R234 to R249); words assembled from the rules' bit positions. -/
theorem test_decode_svI : ∀ p ∈ ([
    (0x00140590659F, .svAddi ⟨11, 8, 0x1, true, true, ⟨.b, .on .x9 false, .three⟩⟩),
    (0x9D2522920E1F, .svSlti ⟨37, 10, 0x9D2, false, false, ⟨.h, .on .x9 true, .four⟩⟩),
    (0x2612B110109F, .svSltiu ⟨2, 5, 0x261, false, false, ⟨.w, .always, .one⟩⟩),
    (0x7978C4921D1F, .svXori ⟨41, 17, 0x797, false, false, ⟨.xl, .on .x9 false, .two⟩⟩),
    (0x77546410079F, .svOri ⟨8, 8, 0x775, false, false, ⟨.b, .on .x9 true, .three⟩⟩),
    (0xBFFFFF90681F, .svAndi ⟨31, 31, 0xBFF, true, true, ⟨.h, .always, .four⟩⟩),
    (0x00B81B11349F, .svSlli ⟨22, 48, 0xB, false, true, ⟨.w, .on .x9 false, .one⟩⟩),
    (0x018151123F1F, .svSrli ⟨34, 2, 0x18, false, true, ⟨.xl, .on .x9 true, .two⟩⟩),
    (0x4226D511419F, .svSrai ⟨10, 45, 0x22, true, false, ⟨.b, .always, .three⟩⟩),
    (0xD87F8A194C1F, .svAddiw ⟨20, 63, 0xD87, true, false, ⟨.h, .on .x9 false, .four⟩⟩),
    (0x03211899769F, .svSlliw ⟨17, 34, 0x32, true, true, ⟨.w, .on .x9 true, .one⟩⟩),
    (0x0291D799191F, .svSrliw ⟨15, 35, 0x29, false, false, ⟨.xl, .always, .two⟩⟩),
    (0x43745799059F, .svSraiw ⟨15, 40, 0x37, false, false, ⟨.b, .on .x9 false, .three⟩⟩),
    (0xCE5B36B44E1F, .svLui ⟨13, 0xCE5B3, true, ⟨.h, .on .x9 true, .four⟩⟩),
    (0xD17E5814109F, .svAuipc ⟨16, 0xD17E5, false, ⟨.w, .always, .one⟩⟩)] :
      List (Nat × Instr)), decodeTableWord 48 p.1 = some p.2 := by
  decide +kernel

/-- Decoding: P48FR (rules R79, R268 to R279); words assembled from the rules' bit positions. -/
theorem test_decode_svFr : ∀ p ∈ ([
    (0x01480D51AD1F, .svFaddFmt (.fixed .rne) ⟨.s, 26, 48, 52, true, false, ⟨.on .x11 false, .two⟩⟩),
    (0x0A279BD10F9F, .svFsubFmt (.fixed .rtz) ⟨.d, 23, 47, 2, false, false, ⟨.on .x11 true, .three⟩⟩),
    (0x14D8AFD0001F, .svFmulFmt (.fixed .rdn) ⟨.h, 31, 17, 13, false, false, ⟨.always, .four⟩⟩),
    (0x1FCA3ED1C49F, .svFdivFmt (.fixed .rup) ⟨.q, 29, 52, 60, false, true, ⟨.on .x9 false, .one⟩⟩),
    (0x206C0FD2671F, .svFsgnjFmt ⟨.s, 63, 24, 6, true, true, ⟨.on .x9 true, .two⟩⟩),
    (0x22EB16D0299F, .svFsgnjnFmt ⟨.d, 13, 22, 14, true, false, ⟨.on .x10 false, .three⟩⟩),
    (0x241B24532A1F, .svFsgnjxFmt ⟨.h, 40, 54, 1, true, false, ⟨.on .x10 true, .four⟩⟩),
    (0x2E650A534C9F, .svFminFmt ⟨.q, 52, 42, 6, false, true, ⟨.on .x11 false, .one⟩⟩),
    (0x28E99CD1CF1F, .svFmaxFmt ⟨.s, 25, 51, 46, false, true, ⟨.on .x11 true, .two⟩⟩),
    (0xA33E2650C19F, .svFeqFmt ⟨.d, 12, 28, 51, false, true, ⟨.always, .three⟩⟩),
    (0xA4FF9ED3E41F, .svFltFmt ⟨.h, 61, 63, 47, true, true, ⟨.on .x9 false, .four⟩⟩),
    (0xA6F30ED2A69F, .svFleFmt ⟨.q, 61, 6, 47, true, false, ⟨.on .x9 true, .one⟩⟩)] :
      List (Nat × Instr)), decodeTableWord 48 p.1 = some p.2 := by
  decide +kernel

/-- Decoding: P48FI and P48FR4 (rules R80, R81, R280 to R298); words assembled from the rules' bit positions. -/
theorem test_decode_svFi : ∀ p ∈ ([
    (0x58054150491F, .svFsqrtFmt (.fixed .rmm) ⟨.s, 2, 10, true, false, ⟨.on .x10 false, .two⟩⟩),
    (0xC20575520B9F, .svFcvtWFmt .dyn ⟨.d, 42, 10, false, false, ⟨.on .x10 true, .three⟩⟩),
    (0xC4158FD14C1F, .svFcvtWuFmt (.fixed .rne) ⟨.h, 31, 43, true, false, ⟨.on .x11 false, .four⟩⟩),
    (0xC62492522E9F, .svFcvtLFmt (.fixed .rtz) ⟨.q, 36, 9, false, true, ⟨.on .x11 true, .one⟩⟩),
    (0xC03527D3211F, .svFcvtLuFmt (.fixed .rdn) ⟨.s, 47, 42, false, true, ⟨.always, .two⟩⟩),
    (0xD20E34D0459F, .svFcvtFmtW (.fixed .rup) ⟨.d, 9, 28, true, false, ⟨.on .x9 false, .three⟩⟩),
    (0xD4174C52661F, .svFcvtFmtWu (.fixed .rmm) ⟨.h, 56, 14, true, true, ⟨.on .x9 true, .four⟩⟩),
    (0xD62870D2489F, .svFcvtFmtL .dyn ⟨.q, 33, 16, true, false, ⟨.on .x10 false, .one⟩⟩),
    (0xD03D81D24B1F, .svFcvtFmtLu (.fixed .rne) ⟨.s, 35, 27, true, false, ⟨.on .x10 true, .two⟩⟩),
    (0xE20B88520D9F, .svFmvXFmt ⟨.d, 48, 23, false, false, ⟨.on .x11 false, .three⟩⟩),
    (0xF40D0AD30E1F, .svFmvFmtX ⟨.h, 53, 58, false, false, ⟨.on .x11 true, .four⟩⟩),
    (0xE6009CD3609F, .svFclassFmt ⟨.q, 57, 33, true, true, ⟨.always, .one⟩⟩),
    (0x402110D2051F, .svFcvtFmtFmt .h (.fixed .rtz) ⟨.s, 33, 2, false, false, ⟨.on .x9 false, .two⟩⟩),
    (0xA320A3C2F79F, .svFmaddFmt (.fixed .rdn) ⟨.d, 39, 1, 50, 52, true, true, ⟨.on .x9 true, .three⟩⟩),
    (0x2487B447681F, .svFmsubFmt (.fixed .rup) ⟨.h, 40, 47, 8, 36, true, false, ⟨.on .x10 false, .four⟩⟩),
    (0x9FF2414B2A9F, .svFnmsubFmt (.fixed .rmm) ⟨.q, 34, 36, 31, 51, false, false, ⟨.on .x10 true, .one⟩⟩),
    (0x90D8724C5D1F, .svFnmaddFmt .dyn ⟨.s, 4, 16, 13, 18, true, true, ⟨.on .x11 false, .two⟩⟩)] :
      List (Nat × Instr)), decodeTableWord 48 p.1 = some p.2 := by
  decide +kernel

/-- Decoding: U, I and R types (rules R331, R501 to R530); words assembled from the rules' bit positions. -/
theorem test_decode_base : ∀ p ∈ ([
    (0x8FCD87B7, .lui 15 0x8FCD8),
    (0xC28EF097, .auipc 1 0xC28EF),
    (0x104F0E93, .addi 29 30 0x104),
    (0x9CD5A793, .slti 15 11 0x9CD),
    (0x832A3893, .sltiu 17 20 0x832),
    (0x470BC393, .xori 7 23 0x470),
    (0x8898E793, .ori 15 17 0x889),
    (0x82087D13, .andi 26 16 0x820),
    (0x02D41F93, .slli 31 8 0x2D),
    (0x039ED893, .srli 17 29 0x39),
    (0x411F5F93, .srai 31 30 0x11),
    (0x01D90F33, .add 30 18 29),
    (0x41B38FB3, .sub 31 7 27),
    (0x00E297B3, .sll 15 5 14),
    (0x00F6A233, .slt 4 13 15),
    (0x0161B5B3, .sltu 11 3 22),
    (0x00374433, .xor 8 14 3),
    (0x00AB53B3, .srl 7 22 10),
    (0x41D25D33, .sra 26 4 29),
    (0x01F2ECB3, .or 25 5 31),
    (0x016AFBB3, .and 23 21 22),
    (0x40D2861B, .addiw 12 5 0x40D),
    (0x01F29E9B, .slliw 29 5 31),
    (0x0184579B, .srliw 15 8 24),
    (0x40D25F9B, .sraiw 31 4 13),
    (0x00680EBB, .addw 29 16 6),
    (0x408D8B3B, .subw 22 27 8),
    (0x00EB933B, .sllw 6 23 14),
    (0x00B6D8BB, .srlw 17 13 11),
    (0x40C3D73B, .sraw 14 7 12)] :
      List (Nat × Instr)), decodeTableWord 32 p.1 = some p.2 := by
  decide +kernel

/-- Decoding: the M instructions (rules R531 to R543); words assembled from the rules' bit positions. -/
theorem test_decode_m : ∀ p ∈ ([
    (0x038185B3, .mul 11 3 24),
    (0x02B09633, .mulh 12 1 11),
    (0x02F7A933, .mulhsu 18 15 15),
    (0x02D0BBB3, .mulhu 23 1 13),
    (0x0348C5B3, .div 11 17 20),
    (0x03F8D533, .divu 10 17 31),
    (0x03E261B3, .rem 3 4 30),
    (0x03D47D33, .remu 26 8 29),
    (0x0291823B, .mulw 4 3 9),
    (0x03D144BB, .divw 9 2 29),
    (0x02935CBB, .divuw 25 6 9),
    (0x03B2ECBB, .remw 25 5 27),
    (0x03EE773B, .remuw 14 28 30)] :
      List (Nat × Instr)), decodeTableWord 32 p.1 = some p.2 := by
  decide +kernel

/-- Decoding: integer loads and stores (rules R545 to R555); words assembled from the rules' bit positions. -/
theorem test_decode_mem : ∀ p ∈ ([
    (0xF23D8B03, .lb 22 27 0xF23),
    (0x26469483, .lh 9 13 0x264),
    (0x83DF2903, .lw 18 30 0x83D),
    (0xB3583983, .ld 19 16 0xB35),
    (0x4781C583, .lbu 11 3 0x478),
    (0xB03D5103, .lhu 2 26 0xB03),
    (0xE5476303, .lwu 6 14 0xE54),
    (0xF0348223, .sb 3 9 0xF04),
    (0x161A95A3, .sh 1 21 0x16B),
    (0x15A4AC23, .sw 26 9 0x158),
    (0x394E37A3, .sd 20 28 0x38F)] :
      List (Nat × Instr)), decodeTableWord 32 p.1 = some p.2 := by
  decide +kernel

/-- Decoding: FP (rules R123, R124, R561 to R595); words assembled from the rules' bit positions. -/
theorem test_decode_fp : ∀ p ∈ ([
    (0x03C481D3, .faddFmt .d (.fixed .rne) 3 9 28),
    (0x0C179253, .fsubFmt .h (.fixed .rtz) 4 15 1),
    (0x16E925D3, .fmulFmt .q (.fixed .rdn) 11 18 14),
    (0x189F3F53, .fdivFmt .s (.fixed .rup) 30 30 9),
    (0x5A02CA53, .fsqrtFmt .d (.fixed .rmm) 20 5),
    (0x25788153, .fsgnjFmt .h 2 17 23),
    (0x264F9453, .fsgnjnFmt .q 8 31 4),
    (0x2024A353, .fsgnjxFmt .s 6 9 2),
    (0x2BE38353, .fminFmt .d 6 7 30),
    (0x2CAA9553, .fmaxFmt .h 10 21 10),
    (0xA67CA8D3, .feqFmt .q 17 25 7),
    (0xA1179553, .fltFmt .s 10 15 17),
    (0xA2930B53, .fleFmt .d 22 6 9),
    (0xC40D7653, .fcvtWFmt .h .dyn 12 26),
    (0xC61480D3, .fcvtWuFmt .q (.fixed .rne) 1 9),
    (0xC0209153, .fcvtLFmt .s (.fixed .rtz) 2 1),
    (0xC23C20D3, .fcvtLuFmt .d (.fixed .rdn) 1 24),
    (0xD40938D3, .fcvtFmtW .h (.fixed .rup) 17 18),
    (0xD618C3D3, .fcvtFmtWu .q (.fixed .rmm) 7 17),
    (0xD0247853, .fcvtFmtL .s .dyn 16 8),
    (0xD2378F53, .fcvtFmtLu .d (.fixed .rne) 30 15),
    (0x440B1253, .fcvtFmtFmt .h .s (.fixed .rtz) 4 22),
    (0xE60A8DD3, .fmvXFmt .q 27 21),
    (0xF00B0753, .fmvFmtX .s 14 22),
    (0xE2091853, .fclassFmt .d 16 18),
    (0x8CDEADC3, .fmaddFmt .h (.fixed .rdn) 27 29 13 17),
    (0x467BB547, .fmsubFmt .q (.fixed .rup) 10 23 7 8),
    (0xE9B3C5CB, .fnmsubFmt .s (.fixed .rmm) 11 7 27 29),
    (0x2B5C7BCF, .fnmaddFmt .d .dyn 23 24 21 5),
    (0xFB662687, .flw 13 12 0xFB6),
    (0x214DB107, .fld 2 27 0x214),
    (0xA021C087, .flq 1 3 0xA02),
    (0x418EABA7, .fsw 24 29 0x417),
    (0x0EE331A7, .fsd 14 6 0xE3),
    (0xD63B4B27, .fsq 3 22 0xD76),
    (0x819E1687, .flh 13 28 0x819),
    (0x99651AA7, .fsh 22 10 0x995)] :
      List (Nat × Instr)), decodeTableWord 32 p.1 = some p.2 := by
  decide +kernel

/-- Decoding: control transfer and system (rules R340 to R347, R361, R362, R366 to R374, R390); words assembled from the rules' bit positions. -/
theorem test_decode_sys : ∀ p ∈ ([
    (0xA7D6246F, .jal 8 0xB153E),
    (0x75A10567, .jalr 10 2 0x75A),
    (0x08630EE3, .beq 6 6 0x44E),
    (0x061797E3, .bne 15 1 0x437),
    (0x29F644E3, .blt 12 31 0x544),
    (0x7CB95A63, .bge 18 11 0x3EA),
    (0xC3F16FE3, .bltu 2 31 0xE1F),
    (0x367575E3, .bgeu 10 7 0x5B5),
    (0x55E0830F, .fence 6 1 0x55E),
    (0x7991968F, .fenceI 13 3 0x799),
    (0x00000073, .ecall),
    (0x00100073, .ebreak),
    (0xA80894F3, .csrrw 9 17 0xA80),
    (0x814423F3, .csrrs 7 8 0x814),
    (0x1750BCF3, .csrrc 25 1 0x175),
    (0x170DD4F3, .csrrwi 9 27 0x170),
    (0x9646E2F3, .csrrsi 5 13 0x964),
    (0x05D6F173, .csrrci 2 13 0x5D),
    (0x30200073, .mret)] :
      List (Nat × Instr)), decodeTableWord 32 p.1 = some p.2 := by
  decide +kernel


/-- `setvl` under the model's own pattern (log entry 3): custom-0, rd 11:7, rs1 19:15, imm 31:20. -/
theorem test_decode_setvl : decodeTableWord 32 0x00828E8B = some (.setvl 29 5 ⟨8, 0x00828E8B⟩) := by decide +kernel

/-- A pattern of `setvl` with its immediate split as in the S format: imm[11:5] in 31:25, imm[4:0] in 24:20. -/
def splitEnc : SetvlEncoding :=
  { enc with imm := [{ pos := 25, bits := 7, lo := 5 }, { pos := 20, bits := 5, lo := 0 }] }

/-- The same with the two pieces the other way round, and a word bit (bit 14) that the pattern leaves free. -/
def swappedEnc : SetvlEncoding :=
  { enc with mask := 0x0000307F, imm := [{ pos := 25, bits := 7, lo := 0 }, { pos := 20, bits := 5, lo := 7 }] }

/-- A split immediate is put together; a free bit of the word stays in the word. -/
theorem test_decode_setvl_split :
    decodeWord splitEnc 4 0x02828E8B = .ok (.setvl 29 5 ⟨40, 0x02828E8B⟩) ∧
    decodeWord swappedEnc 4 0x02828E8B = .ok (.setvl 29 5 ⟨1025, 0x02828E8B⟩) ∧
    decodeWord swappedEnc 4 0x0282CE8B = .ok (.setvl 29 5 ⟨1025, 0x0282CE8B⟩) ∧
    encodeWord swappedEnc (.setvl 29 5 ⟨1025, 0x0282CE8B⟩) = 0x0282CE8B := by decide +kernel

/-- The rows of the Signedness table (vectors S12), on the words of the tests above. -/
theorem test_signedness : ∀ p ∈ ([
    (0x005303B1C19F, .unsigned), (0x01EE2333791F, .unsigned), (0x03D14BB0F69F, .unsigned),
    (0x00140590659F, .unsigned), (0x4226D511419F, .unsigned), (0x01CA84B9509F, .signed), (0x02C5443BC19F, .signed),
    (0xD87F8A194C1F, .signed), (0x43745799059F, .signed), (0xC20575520B9F, .signed), (0xC4158FD14C1F, .unsigned),
    (0xD62870D2489F, .signed), (0xD03D81D24B1F, .unsigned), (0x26AE8A81001F, .signed), (0x954C3380399F, .signed),
    (0x81FDC2014A1F, .unsigned), (0x11FDEE006F1F, .unsigned), (0x8D231804719F, .unsigned), (0x0E6E8F23BB9F, .unsigned),
    (0xCE5B36B44E1F, .unsigned), (0xD17E5814109F, .unsigned), (0x01480D51AD1F, .unsigned), (0xA33E2650C19F, .unsigned),
    (0xE20B88520D9F, .unsigned), (0xF40D0AD30E1F, .unsigned), (0xE6009CD3609F, .unsigned),
    (0x402110D2051F, .unsigned), (0xA320A3C2F79F, .unsigned)] : List (Nat × Signedness)),
    (decodeTableWord 48 p.1).bind (Instr.signedness enc) = some p.2 := by decide +kernel

/-- Reserved encodings are no instruction (the words of vectors V9). -/
theorem test_decode_reserved :
    ∀ w ∈ [0x00140810675F, 0x00029800015F, 0x00140810631F, 0x00029800031F, 0x0102A020029F, 0x00140810E71F,
      0x0000F835489F, 0x0000F834C89F, 0x0000F834689F, 0x00C50450711F, 0x58050450709F, 0x58050450E09F, 0x58150450609F,
      0x00C55450611F, 0x20C53450611F, 0x30C50450611F, 0x00A40860611F, 0x00A4086C611F, 0x00A40864611F, 0x00A40870611F,
      0x00A4080C611F, 0x00A4082C611F, 0x00A40808611F, 0x42A40830611F, 0x40A41830611F, 0x0002F800011F, 0x0102C020009F,
      0x00028804011F], decodeTableWord 48 w = none := by
  decide +kernel

/-! ## Single steps

Expected values are those of the vectors named; the states hold what the vector needs. -/

/-- XLEN = 64, FLEN = 64, `TRAP_MODEL = stop`, pc = 0x1000: the defaults of the vectors. -/
def m0 : State :=
  { State.reset with cfg := { Config.atReset with flen := .f64, trapModel := .stop }, pc := 0x1000#64 }

/-- The same at XLEN = 32. -/
def m32 : State := { m0 with cfg := { m0.cfg with xlen := .rv32 } }

/-- The same under `TRAP_MODEL = mmode`. -/
def mm : State := { m0 with cfg := { m0.cfg with trapModel := .mmode } }

/-- Sets integer registers. -/
def setXs (s : State) : List (Nat × Nat) → State
  | [] => s
  | (r, v) :: l => setXs (s.putX s.cfg.xbits r (BitVec.ofNat _ v)) l

/-- Sets FP registers. -/
def setFs (s : State) : List (Nat × Nat) → State
  | [] => s
  | (r, v) :: l => setFs (s.putF s.cfg.fbits r (BitVec.ofNat _ v)) l

/-- No access at or above `a` is admitted. -/
def below (a : Nat) (s : State) : State :=
  { s with cfg := { s.cfg with backed := [{ base := 0, size := a, load := true, store := true, fetch := true }] } }

/-- One step on the instruction `w` answers a next state with the property. -/
def runs (s : State) (w : Nat) (p : State → Bool) : Bool :=
  match step (s.withFetchWord 48 w) with
  | .next t => p t
  | .fault _ => false
  | .refused _ => false

/-- One step on the instruction `w` traps with this exception and value in a state with the property. -/
def traps (s : State) (w : Nat) (e : Exc) (info : Nat) (p : State → Bool) : Bool :=
  match step (s.withFetchWord 48 w) with
  | .fault (.trapped e' i t) => e' == e && i == info && p t
  | _ => false

/-- One instruction answers a next state with the property. -/
def does (i : Instr) (s : State) (p : State → Bool) : Bool :=
  match exec i s with
  | .next t => p t
  | .fault _ => false
  | .refused _ => false

/-- V3.1: contiguous halfwords, no tail write. -/
theorem test_svlh : runs ((setXs m0 [(5, 0x2000), (17, 0xEEEEEEEEEEEEEEEE)]).setVl 3 |>.memPut 0x2000 64
    0x0706050403020100#64 |>.memPut 0x2008 64 0x0F0E0D0C0B0A0908#64) 0x00029800011F
    (fun t => t.getX 64 16 == 0x0706050403020100#64 && t.getX 64 17 == 0xEEEEEEEE0B0A0908#64 && t.pc == 0x1006#64) =
    true := by decide +kernel

/-- V3.5: a gather takes one address for each sub-vector. -/
theorem test_svlhu_gather : runs ((setXs m0 [(8, 0x2020), (9, 0x2000)]).setVl 2 |>.memPut 0x2000 64
    0x0706050403020100#64 |>.memPut 0x2020 64 0x2726252423222120#64) 0x00245C00111F
    (fun t => t.getX 64 24 == 0x0504030225242322#64) = true := by decide +kernel

/-- V3.3: a negative register stride. -/
theorem test_svlb_stride : runs ((setXs m0 [(5, 0x2010), (12, 0xFFFFFFFFFFFFFFFD)]).setVl 4 |>.memPut 0x2007 64
    0x0E0D0C0B0A090807#64 |>.memPut 0x2010 8 0x10#8) 0x00028A00C09F
    (fun t => t.getX 64 20 == 0x070A0D10#64) = true := by decide +kernel

/-- V3.8: the trap leaves the failing index in Vstart, the lower indices committed. -/
theorem test_svlw_traps : traps (below 0x2008 ((setXs m0 [(5, 0x1FFC)]).setVl 3 |>.memPut 0x1FFC 64
    0x03020100A3A2A1A0#64)) 0x0002A800011F .loadAccessFault 0x2008
    (fun t => t.vstart == 1 && t.pc == 0x1000#64 && t.getX 64 16 == 0x03020100A3A2A1A0#64 && t.getX 64 17 == 0#64) =
    true := by decide +kernel

/-- V3.7 and V3.10: a misaligned element; LD at XLEN = 32. -/
theorem test_svload_exceptions :
    traps ((setXs m0 [(5, 0x2000)]).setVl 4) 0x0022A800009F .loadAddressMisaligned 0x2002 (fun t => t.vstart == 0) =
      true ∧
    traps (m32.setVl 2) 0x0002B002009F .illegalInstruction 0x0002B002009F (fun t => t.pc == 0x1000#64) = true := by
  decide +kernel

/-- V3.12: a scatter to one address; the higher index wins. -/
theorem test_svsw_scatter : runs ((setXs m0 [(10, 0x3000), (11, 0x3000), (64, 0x2222222211111111)]).setVl 2)
    0x00152220109F (fun t => t.memGet 0x3004 32 == 0x22222222#32 && t.memGet 0x3000 32 == 0#32) = true := by
  decide +kernel

/-- V3.14: sub-vector 0 stands, the failing one stores nothing. -/
theorem test_svsw_traps : traps (below 0x4004 ((setXs m0 [(7, 0x3FF8), (16, 0x0807060504030201),
    (17, 0x100F0E0D0C0B0A09)]).setVl 2)) 0x0103A020011F .storeAccessFault 0x4004
    (fun t => t.vstart == 1 && t.memGet 0x3FF8 64 == 0x0807060504030201#64 && t.memGet 0x4000 32 == 0#32) = true := by
  decide +kernel

/-- V3.15: prefixed FP loads do not NaN-box. -/
theorem test_svflh : runs ((setXs m0 [(5, 0x2000)]).setVl 1 |>.memPut 0x2000 64 0x0706050403020100#64) 0x00029104001F
    (fun t => t.getF 64 2 == 0x0706050403020100#64 && t.getF 64 3 == 0#64) = true := by decide +kernel

/-- The element functions of V4 at w = 8: a, b and r of `sv.<op>.BU S:x7, S:x5, S:x6`. -/
theorem test_sv_op : ∀ p ∈ ([(.svAdd, 0x7F, 0x01, 0x80), (.svSub, 0x00, 0x01, 0xFF), (.svSll, 0x01, 0xFF, 0x80),
    (.svSlt, 0x80, 0x7F, 0x01), (.svSltu, 0x80, 0x7F, 0x00), (.svXor, 0xF0, 0xFF, 0x0F), (.svSrl, 0x80, 0x07, 0x01),
    (.svSra, 0x80, 0x01, 0xC0), (.svOr, 0xF0, 0x0F, 0xFF), (.svAnd, 0xF0, 0x3C, 0x30), (.svMul, 0xFF, 0xFF, 0x01),
    (.svMulh, 0x80, 0x7F, 0xC0), (.svMulhsu, 0x80, 0xFF, 0x80), (.svMulhu, 0xFF, 0xFF, 0xFE),
    (.svDiv, 0xF9, 0x02, 0xFD), (.svDiv, 0x80, 0xFF, 0x80), (.svDivu, 0x07, 0x00, 0xFF), (.svRem, 0xF9, 0x02, 0xFF),
    (.svRem, 0x07, 0x00, 0x07), (.svRemu, 0x80, 0xFF, 0x80), (.svAddw, 0x7F, 0x01, 0x80), (.svSubw, 0x00, 0x01, 0xFF),
    (.svSllw, 0x01, 0xFF, 0x80), (.svSrlw, 0x80, 0x07, 0x01), (.svSraw, 0x80, 0x01, 0xC0), (.svMulw, 0xFF, 0xFF, 0x01),
    (.svDivw, 0xF9, 0x02, 0xFD), (.svDivuw, 0x07, 0x00, 0xFF), (.svRemw, 0xF9, 0x02, 0xFF),
    (.svRemuw, 0x80, 0xFF, 0x80)] : List ((ROps → Instr) × Nat × Nat × Nat)),
    does (p.1 ⟨7, 5, 6, false, false, ⟨.b, .always, .one⟩⟩)
      (setXs m0 [(5, 0xA500 + p.2.1), (6, 0xA500 + p.2.2.1), (7, 0xEEEEEEEEEEEEEEEE)])
      (fun t => t.getX 64 7 == BitVec.ofNat 64 (0xEEEEEEEEEEEEEE00 + p.2.2.2)) = true := by decide +kernel

/-- V4.2: a scalar sub-vector against a vector; rd is a vector. -/
theorem test_svsub : runs ((setXs m0 [(8, 0x0004000300020001), (9, 0x00060005), (33, 0xAAAABBBB00100001),
    (67, 0xEEEEEEEEEEEEEEEE)]).setVl 3) 0x401401B0A91F
    (fun t => t.getX 64 66 == 0xFFF40002FFF20000#64 && t.getX 64 67 == 0xEEEEEEEEFFF60004#64) = true := by
  decide +kernel

/-- The element functions of V5 at w = 8: a, imm and r. -/
theorem test_sv_op_imm : ∀ p ∈ ([(.svAddi, 0x01, 0x7FF, 0x00), (.svSlti, 0x05, 0x080, 0x00),
    (.svSltiu, 0xFE, 0xFFF, 0x01), (.svXori, 0x5A, 0xFFF, 0xA5), (.svOri, 0xF0, 0x80F, 0xFF),
    (.svAndi, 0xFF, 0xF0F, 0x0F), (.svAddiw, 0x01, 0x7FF, 0x00)] : List ((IOps → Instr) × Nat × Nat × Nat)),
    does (p.1 ⟨7, 5, BitVec.ofNat 12 p.2.2.1, false, false, ⟨.b, .always, .one⟩⟩)
      (setXs m0 [(5, 0xA500 + p.2.1), (7, 0xEEEEEEEEEEEEEEEE)])
      (fun t => t.getX 64 7 == BitVec.ofNat 64 (0xEEEEEEEEEEEEEE00 + p.2.2.2)) = true := by decide +kernel

/-- Shift immediates of V5 at w = 8; a shift amount of 8 is reserved. -/
theorem test_sv_shift_imm : (∀ p ∈ ([(.svSlli, 0x01, 0x80), (.svSrli, 0x80, 0x01), (.svSrai, 0x80, 0xFF),
    (.svSlliw, 0x01, 0x80), (.svSrliw, 0x80, 0x01), (.svSraiw, 0x80, 0xFF)] : List ((ShOps → Instr) × Nat × Nat)),
    does (p.1 ⟨7, 5, 7, false, false, ⟨.b, .always, .one⟩⟩) (setXs m0 [(5, 0xA500 + p.2.1), (7, 0xEEEEEEEEEEEEEEEE)])
      (fun t => t.getX 64 7 == BitVec.ofNat 64 (0xEEEEEEEEEEEEEE00 + p.2.2)) = true) ∧
    traps m0 0x00829390009F .illegalInstruction 0x00829390009F (fun _ => true) = true := by decide +kernel

/-- V5.4: a destination that overlaps its source sees the elements already written. -/
theorem test_svaddi_overlap : runs ((setXs m0 [(8, 0x0807060504030201), (9, 0x100F0E0D0C0B0A09),
    (10, 0x1817161514131211), (12, 0xEEEEEEEEEEEEEEEE)]).setVl 20) 0x00140510609F
    (fun t => t.getX 64 10 == 0x0908070605040302#64 && t.getX 64 11 == 0x11100F0E0D0C0B0A#64 &&
      t.getX 64 12 == 0xEEEEEEEE06050403#64) = true := by decide +kernel

/-- V5.9 and V5.7: AUIPC takes the address of the whole instruction; LUI sign-extends. -/
theorem test_sv_upper :
    runs ((setXs m0 [(9, 1), (72, 0xEEEEEEEEEEEEEEEE)]).setVl 2 |>.setPc 0x2004#64) 0xFFFFF494551F
      (fun t => t.getX 64 72 == 0xEEEEEEEEEEEEEEEE#64 && t.getX 64 73 == 0x0000100400001004#64) = true ∧
    runs m0 0x80000436189F (fun t => t.getX 64 40 == 0xFFFFFFFF80000000#64) = true := by decide +kernel

/-- V6.1 and V6.2: packed singles and halves. -/
theorem test_svfadd_svfmul :
    runs ((setFs m0 [(10, 0x400000003F800000), (11, 0x4080000040400000), (12, 0x3F0000003F000000),
      (13, 0x3F0000003F000000)]).setVl 2) 0x00C50450611F
      (fun t => t.getF 64 8 == 0x402000003FC00000#64 && t.getF 64 9 == 0x4090000040600000#64 && t.fflags == 0#5) = true ∧
    runs ((setXs (setFs m0 [(11, 0x4800470046004500), (1, 0x4000400040004000), (8, 0xDDDD)]) [(10, 2)]).setVl 2)
      0x141504502A1F (fun t => t.getF 64 8 == 0xDDDD#64 && t.getF 64 9 == 0x4C004B004A004900#64) = true := by
  decide +kernel

/-- Rows of V6 in single precision: the two-source functions, with their flags. -/
theorem test_sv_fp_two : ∀ p ∈ ([(.svFsubFmt (.fixed .rdn), 0x3F800000, 0x3F800000, 0x80000000, 0),
    (.svFdivFmt (.fixed .rne), 0x3F800000, 0x40400000, 0x3EAAAAAB, 1),
    (.svFdivFmt (.fixed .rtz), 0x3F800000, 0, 0x7F800000, 8),
    (.svFsgnjFmt, 0x3F800000, 0xC0000000, 0xBF800000, 0), (.svFsgnjnFmt, 0x3F800000, 0xC0000000, 0x3F800000, 0),
    (.svFsgnjxFmt, 0xBF800000, 0xC0000000, 0x3F800000, 0), (.svFminFmt, 0x7F800001, 0x3F800000, 0x3F800000, 16),
    (.svFmaxFmt, 0x80000000, 0, 0, 0)] : List ((FrOps → Instr) × Nat × Nat × Nat × Nat)),
    does (p.1 ⟨.s, 7, 5, 6, false, false, ⟨.always, .one⟩⟩) (setFs m0 [(5, p.2.1), (6, p.2.2.1), (7, 0xDDDDDDDD00000000)])
      (fun t => t.getF 64 7 == BitVec.ofNat 64 (0xDDDDDDDD00000000 + p.2.2.2.1) &&
        t.fflags == BitVec.ofNat 5 p.2.2.2.2) = true := by decide +kernel

/-- Rows of V6: the comparisons give XLEN-bit integers. -/
theorem test_sv_fp_compare : ∀ p ∈ ([(.svFeqFmt, 0, 0x80000000, 1, 0), (.svFltFmt, 0x7FC00000, 0x3F800000, 0, 16),
    (.svFleFmt, 0x3F800000, 0x3F800000, 1, 0)] : List ((FrOps → Instr) × Nat × Nat × Nat × Nat)),
    does (p.1 ⟨.s, 7, 5, 6, false, false, ⟨.always, .one⟩⟩)
      (setXs (setFs m0 [(5, p.2.1), (6, p.2.2.1)]) [(7, 0xEEEEEEEEEEEEEEEE)])
      (fun t => t.getX 64 7 == BitVec.ofNat 64 p.2.2.2.1 && t.fflags == BitVec.ofNat 5 p.2.2.2.2) = true := by
  decide +kernel

/-- Rows of V6: one FP source, FP result. -/
theorem test_sv_fp_one : ∀ p ∈ ([(.s, .svFsqrtFmt (.fixed .rne), 0x40000000, 0x3FB504F3, 1),
    (.h, .svFcvtFmtFmt .s (.fixed .rne), 0x47800000, 0x7C00, 5), (.s, .svFcvtFmtFmt .h .dyn, 0x0001, 0x33800000, 0)] :
      List (Fmt × (FiOps → Instr) × Nat × Nat × Nat)),
    does (p.2.1 ⟨p.1, 7, 5, false, false, ⟨.always, .one⟩⟩) (setFs m0 [(5, p.2.2.1)])
      (fun t => t.getF 64 7 == BitVec.ofNat 64 p.2.2.2.1 && t.fflags == BitVec.ofNat 5 p.2.2.2.2) = true := by
  decide +kernel

/-- Rows of V6: FP to integer; the element is not sign-extended. -/
theorem test_sv_fp_to_int : ∀ p ∈ ([(.s, .svFcvtWFmt (.fixed .rdn), 0xC0700000, 0xEEEEEEEEFFFFFFFC, 1),
    (.s, .svFcvtWuFmt (.fixed .rne), 0x4F32D05E, 0xEEEEEEEEB2D05E00, 0),
    (.d, .svFcvtLFmt (.fixed .rtz), 0xC00C000000000000, 0xFFFFFFFFFFFFFFFD, 1),
    (.h, .svFcvtLuFmt (.fixed .rne), 0x7BFF, 0xFFE0, 0), (.h, .svFmvXFmt, 0xC000, 0xEEEEEEEEEEEEC000, 0),
    (.s, .svFclassFmt, 0x80000001, 0x4, 0)] : List (Fmt × (FiOps → Instr) × Nat × Nat × Nat)),
    does (p.2.1 ⟨p.1, 7, 5, false, false, ⟨.always, .one⟩⟩)
      (setXs (setFs m0 [(5, p.2.2.1)]) [(7, 0xEEEEEEEEEEEEEEEE)])
      (fun t => t.getX 64 7 == BitVec.ofNat 64 p.2.2.2.1 && t.fflags == BitVec.ofNat 5 p.2.2.2.2) = true := by
  decide +kernel

/-- Rows of V6: integer to FP. -/
theorem test_sv_int_to_fp : ∀ p ∈ ([(.h, .svFcvtFmtW (.fixed .rne), 0x801, 0x6800, 1),
    (.s, .svFcvtFmtWu (.fixed .rne), 0xFFFFFFFF, 0x4F800000, 1),
    (.d, .svFcvtFmtL (.fixed .rne), 0xFFFFFFFFFFFFFFFF, 0xBFF0000000000000, 0),
    (.d, .svFcvtFmtLu (.fixed .rne), 0xFFFFFFFFFFFFFFFF, 0x43F0000000000000, 1),
    (.s, .svFmvFmtX, 0x7FC00001, 0x7FC00001, 0)] : List (Fmt × (FiOps → Instr) × Nat × Nat × Nat)),
    does (p.2.1 ⟨p.1, 7, 5, false, false, ⟨.always, .one⟩⟩) (setXs m0 [(5, p.2.2.1)])
      (fun t => t.getF 64 7 == BitVec.ofNat 64 p.2.2.2.1 && t.fflags == BitVec.ofNat 5 p.2.2.2.2) = true := by
  decide +kernel

/-- Rows of V6: the fused operations, 2, 3 and 1. -/
theorem test_sv_fused : ∀ p ∈ ([(.svFmaddFmt, 0x40E00000), (.svFmsubFmt, 0x40A00000), (.svFnmsubFmt, 0xC0A00000),
    (.svFnmaddFmt, 0xC0E00000)] : List ((Rm → Fr4Ops → Instr) × Nat)),
    does (p.1 .dyn ⟨.s, 7, 5, 6, 4, false, false, ⟨.always, .one⟩⟩)
      (setFs m0 [(5, 0x40000000), (6, 0x40400000), (4, 0x3F800000)])
      (fun t => t.getF 64 7 == BitVec.ofNat 64 p.2 && t.fflags == 0#5) = true := by decide +kernel

/-- Rows of V7: XLEN = 64, imm = 8, by the requested length; and the immediate for x0; imm = 65 is illegal. -/
theorem test_setvl : (∀ p ∈ [(3, 3), (8, 8), (9, 4), (15, 7), (16, 8), (17, 64), (0xFFFFFFFFFFFFFFFF, 64)],
    does (.setvl 6 5 ⟨8, 0x0082830B⟩) (setXs m0 [(5, p.1)]) (fun t => t.vl == p.2 && t.getX 64 6 == BitVec.ofNat 64 p.2) = true) ∧
    does (.setvl 6 0 ⟨64, 0x0400030B⟩) m0 (fun t => t.vl == 64) = true ∧
    traps m0 0x0410030B .illegalInstruction 0x0410030B (fun t => t.vl == 0) = true := by decide +kernel

/-- V8.1 and V8.13: a run from Vstart = 2; a predicated scalar instruction uses bit 0. -/
theorem test_sv_vstart :
    runs { (setXs m0 [(8, 0x04030201)]).setVl 4 with vstart := 2 } 0x00140810609F
      (fun t => t.getX 64 16 == 0x05040000#64 && t.vstart == 0) = true ∧
    runs (setXs m0 [(9, 2), (5, 7)]) 0x001284121E9F (fun t => t.getX 64 40 == 0#64 && t.pc == 0x1006#64) = true := by
  decide +kernel

/-- V8.7: the predicate register is sampled at the start. -/
theorem test_sv_predicate : runs ((setXs m0 [(8, 0x30201), (9, 2), (10, 0xEEEEEEEEEEEEEEEE)]).setVl 3) 0x100404107C9F
    (fun t => t.getX 64 8 == 0x30301#64 && t.getX 64 9 == 2#64 && t.getX 64 10 == 0xEEEEEEEEEEEEEFEE#64) = true := by
  decide +kernel

/-- Rows of V10: integer instructions. -/
theorem test_base_int :
    runs (setXs m0 [(5, 1), (6, 2)]) 0x406283B3 (fun t => t.getX 64 7 == 0xFFFFFFFFFFFFFFFF#64 && t.pc == 0x1004#64) =
      true ∧
    runs (setXs m0 [(5, 1), (6, 0x41)]) 0x006293B3 (fun t => t.getX 64 7 == 2#64) = true ∧
    runs (setXs m0 [(5, 0x8000000000000000)]) 0x4042D313 (fun t => t.getX 64 6 == 0xF800000000000000#64) = true ∧
    runs (setXs m0 [(5, 7)]) 0x00128013 (fun t => t.getX 64 0 == 0#64) = true ∧
    runs m0 0x800002B7 (fun t => t.getX 64 5 == 0xFFFFFFFF80000000#64) = true ∧
    runs (setXs m0 [(5, 0x8000000000000000), (6, 0xFFFFFFFFFFFFFFFF)]) 0x0262C3B3
      (fun t => t.getX 64 7 == 0x8000000000000000#64) = true := by decide +kernel

/-- Rows of V10: memory. -/
theorem test_base_mem :
    runs (setXs m0 [(5, 0x2000)] |>.memPut 0x2004 32 0x80000001#32) 0x0042A383
      (fun t => t.getX 64 7 == 0xFFFFFFFF80000001#64) = true ∧
    runs (setXs m0 [(5, 0x2000)] |>.memPut 0x2004 32 0x80000001#32) 0x0042E383
      (fun t => t.getX 64 7 == 0x80000001#64) = true ∧
    runs (setXs m0 [(5, 0x2002), (6, 0xABCD1234)]) 0xFE629F23
      (fun t => t.memGet 0x2000 32 == 0x1234#32) = true := by decide +kernel

/-- Rows of V10: control transfer. -/
theorem test_base_control :
    runs ((setXs m0 [(5, 1), (6, 2)]).setPc 0x101C#64) 0xFE6298E3 (fun t => t.pc == 0x100C#64) = true ∧
    runs ((setXs m0 [(5, 2), (6, 2)]).setPc 0x101C#64) 0xFE6298E3 (fun t => t.pc == 0x1020#64) = true ∧
    runs (setXs m0 [(5, 1), (6, 0xFFFFFFFFFFFFFFFF)]) 0x0062E463 (fun t => t.pc == 0x1008#64) = true ∧
    runs (setXs m0 [(5, 1), (6, 0xFFFFFFFFFFFFFFFF)]) 0x0062C463 (fun t => t.pc == 0x1004#64) = true ∧
    runs (m0.setPc 0x100#64) 0x020000EF (fun t => t.getX 64 1 == 0x104#64 && t.pc == 0x120#64) = true ∧
    runs (setXs m0 [(1, 0x2000)]) 0x00308067 (fun t => t.pc == 0x2002#64) = true := by decide +kernel

/-- Rows of V10: environment calls and the FP CSRs. -/
theorem test_base_system :
    traps m0 0x00000073 .environmentCall 0 (fun t => t.pc == 0x1000#64) = true ∧
    traps m0 0x00100073 .breakpoint 0x1000 (fun t => t.pc == 0x1000#64) = true ∧
    runs { m0 with fflags := 1, frm := 1 } 0x001022F3 (fun t => t.getX 64 5 == 1#64 && t.frm == 1#3) = true ∧
    runs { setXs m0 [(6, 0x1F)] with fflags := 1, frm := 1 } 0x002312F3
      (fun t => t.getX 64 5 == 1#64 && t.frm == 7#3 && t.fflags == 1#5) = true ∧
    runs { m0 with fflags := 1, frm := 7 } 0x0030F073 (fun t => t.frm == 7#3 && t.fflags == 0#5) = true := by
  decide +kernel

/-- The trap entry and the return of rule R390, by hand: from pc 0x1000 with `mtvec` = 0x803. -/
theorem test_trap_and_return :
    runs { mm with mtvec := 0x803, mie := true } 0x00100073 (fun t => t.pc == 0x800#64 && t.mepc == 0x1000#64 &&
      t.mcause == 3#64 && t.mtval == 0x1000#64 && t.mpie && !t.mie) = true ∧
    runs { mm with mepc := 0x1000, mpie := true } 0x30200073 (fun t => t.pc == 0x1000#64 && t.mie && t.mpie) = true := by
  decide +kernel

/-- Unprefixed FP, by hand from rule R360: a narrow result is boxed; an operand that is not boxed is the canonical NaN. -/
theorem test_base_fp :
    does (.faddFmt .s (.fixed .rne) 7 5 6) (setFs m0 [(5, 0xFFFFFFFF3FC00000), (6, 0xFFFFFFFF40200000)])
      (fun t => t.getF 64 7 == 0xFFFFFFFF40800000#64 && t.fflags == 0#5) = true ∧
    does (.fmaxFmt .s 7 5 6) (setFs m0 [(5, 0x000000003FC00000), (6, 0xFFFFFFFF40200000)])
      (fun t => t.getF 64 7 == 0xFFFFFFFF40200000#64) = true ∧
    does (.fclassFmt .s 7 5) (setFs m0 [(5, 0x000000003FC00000)]) (fun t => t.getX 64 7 == 0x200#64) = true ∧
    does (.fmvXFmt .s 7 5) (setFs m0 [(5, 0x00000000C0000000)]) (fun t => t.getX 64 7 == 0xFFFFFFFFC0000000#64) = true := by
  decide +kernel

/-! ## Witnesses

For each statement of Obligations.lean with hypotheses: a concrete state and operands that meet them, for each clause,
at the ends of the ranges they bound. -/

/-- The outcome is a next state. -/
def isNext (o : Out) : Bool :=
  match o with
  | .next _ => true
  | .fault _ => false
  | .refused _ => false

theorem next_of_isNext {o : Out} (h : isNext o = true) : ∃ t, o = .next t := by
  cases o with
  | next t => exact ⟨t, rfl⟩
  | fault f => cases h
  | refused r => cases h

/-- The outcome is the end of a run under `TRAP_MODEL = stop`. -/
def isTrapped (o : Out) : Bool :=
  match o with
  | .fault (.trapped _ _ _) => true
  | _ => false

theorem trapped_of_isTrapped {o : Out} (h : isTrapped o = true) : ∃ e info u, o = .fault (.trapped e info u) := by
  cases o with
  | next t => cases h
  | refused r => cases h
  | fault f =>
    cases f with
    | trapped e info u => exact ⟨e, info, u, rfl⟩
    | registerOverrun | illegalCsrValue | unmodelledCsr | fetchWrap | storeToText => cases h

/-- The machine at reset with `addi x5, x0, 5` at its pc. -/
def ready : State := State.reset.withFetchWord 32 0x00500293

/-- `ready` at the last four bytes of the address space. -/
def top : State := (State.reset.setPc 0xFFFFFFFFFFFFFFFC#64).withFetchWord 32 0x00500293

/-- A prefixed ADD with every field at its last value. -/
def lastAdd : ROps := ⟨63, 63, 63, true, true, ⟨.xl, .on .x9 false, .four⟩⟩

/-- A prefixed ADD of doublewords to x126. -/
def toTop : ROps := ⟨63, 16, 18, true, true, ⟨.xl, .always, .one⟩⟩

/-- A prefixed FP instruction with one source, to f126 or x126. -/
def oneTop : FiOps := ⟨.d, 63, 16, true, true, ⟨.always, .one⟩⟩

/-- A prefixed word access of x126 .. at x5. -/
def wordAt : MemOps := ⟨63, 5, 0, .c, ⟨.always, .one⟩⟩

/-- x5 = 0x2000 and VL = `n`. -/
def at5 (n : Nat) : State := (setXs m0 [(5, 0x2000)]).setVl n

/-- A machine on which 0x1000 .. 0x1003 is program text. -/
def withText : State := { m0 with cfg := { m0.cfg with text := [{ base := 0x1000, size := 4 }] } }

theorem witness_DecodeOfEncode : Instr.wellFormed enc (.svAdd lastAdd) = true ∧ ¬SetvlInstr (.svAdd lastAdd) :=
  ⟨by decide, fun ⟨_, _, _, h⟩ => nomatch h⟩

/-- A `setvl` of the split pattern, with every field at its last value. -/
theorem witness_DecodeOfEncodeSetvl :
    Instr.wellFormed splitEnc (.setvl 31 31 ⟨4095, 0xFFFF8F8B⟩) = true ∧ SetvlInstr (.setvl 31 31 ⟨4095, 0xFFFF8F8B⟩) ∧
    instrLen (encodeWord splitEnc (.setvl 31 31 ⟨4095, 0xFFFF8F8B⟩) % 2 ^ 16) = some splitEnc.len ∧
    decodeFixed splitEnc.len (encodeWord splitEnc (.setvl 31 31 ⟨4095, 0xFFFF8F8B⟩)) = .error .reservedOpcode ∧
    4095 < 2 ^ 12 :=
  ⟨by decide, ⟨_, _, _, rfl⟩, by decide +kernel, by decide +kernel, by decide⟩

theorem witness_StepKeepsInvariant : State.Inv ready ∧ ∃ t, step ready = .next t := by
  refine ⟨?_, next_of_isNext (by decide +kernel)⟩
  constructor <;> first | decide +kernel | (constructor <;> decide +kernel)

theorem witness_StepRunsDecoded :
    decode top.cfg.setvlEnc [0x93#8, 0x02#8, 0x50#8, 0x00#8] = .ok (.addi 5 0 5, []) ∧ top.pc.toNat % 2 = 0 ∧
    top.pc.toNat + 4 ≤ 2 ^ top.cfg.xbits ∧ top.admits top.pc.toNat 4 .fetch = true ∧
    ∀ (k : Nat) (h : k < 4), top.byteAt ((top.pc.toNat + k) % 2 ^ top.cfg.xbits) =
      [0x93#8, 0x02#8, 0x50#8, 0x00#8][k] := by decide +kernel

theorem witness_FetchReads :
    fetch (State.reset.withFetchWord 16 0x0001) = .word 2 0x0001 ∧ fetch top = .word 4 0x00500293 ∧
    fetch (m0.withFetchWord 48 0x00140810671F) = .word 6 0x00140810671F := by decide +kernel

/-- The first parcel as FetchExceptions names it. -/
def parcel (s : State) : Nat :=
  (s.byteAt (s.pc.toNat % 2 ^ s.cfg.xbits)).toNat + 256 * (s.byteAt ((s.pc.toNat + 1) % 2 ^ s.cfg.xbits)).toNat

theorem witness_FetchExceptions :
    (State.reset.setPc 1#64).pc.toNat % 2 = 1 ∧
    (below 0x1001 m0).pc.toNat % 2 = 0 ∧ (below 0x1001 m0).admits 0x1000 2 .fetch = false ∧
    (let s := m0.withFetchWord 16 0x003F
     s.pc.toNat % 2 = 0 ∧ s.admits s.pc.toNat 2 .fetch = true ∧ parcel s % 64 = 63) ∧
    (let s := (State.reset.setPc 0xFFFFFFFFFFFFFFFE#64).withFetchWord 16 0x0293
     s.pc.toNat % 2 = 0 ∧ s.admits s.pc.toNat 2 .fetch = true ∧ parcel s % 4 = 3 ∧ parcel s / 4 % 8 ≠ 7 ∧
       2 ^ s.cfg.xbits < s.pc.toNat + 4) ∧
    (let s := below 0x1005 (m0.withFetchWord 48 0x00140810671F)
     s.admits 0x1000 2 .fetch = true ∧ parcel s % 64 = 31 ∧ 0x1000 + 6 ≤ 2 ^ s.cfg.xbits ∧
       s.admits 0x1000 6 .fetch = false) := by decide +kernel

/-- A parcel with bits 5:0 = 111111 raises IllegalInstruction with the parcel alone (rule R66). -/
theorem test_fetch_too_long : traps m0 0x12345678003F .illegalInstruction 0x003F (fun t => t.pc == 0x1000#64) = true := by
  decide +kernel

theorem witness_UndecodedIsIllegal :
    fetch (m0.withFetchWord 48 0x00140810675F) = .word 6 0x00140810675F ∧
    decodeWord enc 6 0x00140810675F = .error .reservedBit ∧
    fetch (State.reset.withFetchWord 16 0x0001) = .word 2 0x0001 ∧ decodeWord enc 2 0x0001 = .error .compressed ∧
    State.reset.cfg.hasC = false := by decide +kernel

theorem witness_ElementWrite :
    64 % 8 = 0 ∧ m0.firstByte .x ≤ m0.elemByte .x 1 0 64 ∧ m0.elemByte .x 1 0 64 = 8 ∧ 7 < 8 ∧ 8 + 64 / 8 ≤ 16 ∧
    7 < m0.firstByte .x ∧ m0.firstByte .fp ≤ m0.elemByte .fp 0 0 64 := by decide

theorem witness_MemoryLittleEndian :
    128 % 8 = 0 ∧ 128 ≤ 128 ∧ 15 < 128 / 8 ∧ ∀ m < 128 / 8, (0 + m) % 2 ^ m0.cfg.xbits ≠ 16 := by decide +kernel

theorem witness_AccessChecks :
    m0.cfg.misaligned = .trap ∧ 0x2001 % 2 ≠ 0 ∧ 0x2002 % 2 = 0 ∧
    (∀ m < 4, ∃ r ∈ (below 0x2004 m0).cfg.backed, r.base ≤ (0x2000 + m) % 2 ^ m0.cfg.xbits ∧
      (0x2000 + m) % 2 ^ m0.cfg.xbits < r.base + r.size ∧ r.load = true) ∧
    (∀ r ∈ (below 0x2003 m0).cfg.backed, r.base ≤ (0x2000 + 3) % 2 ^ m0.cfg.xbits →
      (0x2000 + 3) % 2 ^ m0.cfg.xbits < r.base + r.size → r.load = false) := by decide +kernel

theorem witness_SubVectorFields :
    Pred.ofBits? 0b111#3 = some (.on .x11 true) ∧ Pred.ofBits? 0b000#3 = some .always ∧
    Vtp.ofBits? 0b11111#5 = some ⟨.on .x11 true, .three⟩ ∧ Vitp.ofBits? 0b111100#6 = some ⟨.xl, .on .x9 true, .four⟩ := by
  decide

theorem witness_ImmediateShifts :
    (63#6).toNat < m0.cfg.xbits ∧ (31#6).toNat < m32.cfg.xbits ∧ m32.cfg.xbits ≤ (32#6).toNat := by decide

theorem witness_WordArithmetic : m0.cfg.xlen = .rv64 := rfl

theorem witness_MultiplyDivide : m0.cfg.hasM = true ∧ m32.cfg.hasM = true := ⟨rfl, rfl⟩

theorem witness_MultiplyDivideWord : m0.cfg.xlen = .rv64 ∧ m0.cfg.hasM = true := ⟨rfl, rfl⟩

theorem witness_AbsentInstructions :
    ({ m0 with cfg := { m0.cfg with hasM := false } } : State).cfg.hasM = false ∧ m32.cfg.xlen = .rv32 ∧
    m32.cfg.xbits < Fmt.width .d ∧ m32.cfg.xbits < oneTop.fmt.width := by decide

theorem witness_IntegerLoads :
    m0.ea 0 (-8) = 0xFFFFFFFFFFFFFFF8 ∧ CanLoad m0 (m0.ea 0 (-8)) 8 ∧ CanLoad m0 (m0.ea 0 (-8)) 16 ∧
    CanLoad m0 (m0.ea 0 (-8)) 32 ∧ CanLoad m0 (m0.ea 0 (-8)) 64 ∧ m0.cfg.xlen = .rv64 := by
  unfold CanLoad; decide +kernel

theorem witness_IntegerStores :
    CanStore m0 (m0.ea 0 (-8)) 8 ∧ CanStore m0 (m0.ea 0 (-8)) 16 ∧ CanStore m0 (m0.ea 0 (-8)) 32 ∧
    CanStore withText 0x1004 32 ∧ CanStore m0 (m0.ea 0 (-8)) 64 := by
  unfold CanStore; decide +kernel

theorem witness_FpLoadsStores :
    CanLoad State.reset (State.reset.ea 0 (-16)) 16 ∧ CanLoad State.reset (State.reset.ea 0 (-16)) 32 ∧
    CanLoad State.reset (State.reset.ea 0 (-16)) 64 ∧ CanLoad State.reset (State.reset.ea 0 (-16)) 128 ∧
    CanStore State.reset (State.reset.ea 0 (-16)) 16 ∧ CanStore State.reset (State.reset.ea 0 (-16)) 128 ∧
    128 ≤ State.reset.cfg.fbits ∧ 64 ≤ m0.cfg.fbits := by
  unfold CanLoad CanStore; decide +kernel

theorem witness_RefusedAccesses :
    m0.ea 0 1 = 1 ∧ m0.checkAccess 1 2 .load = some .loadAddressMisaligned ∧
    m0.checkAccess 1 4 .store = some .storeAddressMisaligned ∧
    (below 0x100 m0).checkAccess 0x100 1 .load = some .loadAccessFault ∧
    m0.checkAccess 4 8 .load = some .loadAddressMisaligned ∧ 8 * 8 ≤ m0.cfg.fbits ∧
    withText.checkAccess 0x1000 4 .store = none ∧ withText.hitsText 0x1003 1 = true ∧
    withText.hitsText 0x1004 1 = false := by decide +kernel

theorem witness_NanBoxing :
    Fmt.width .s ≤ 64 ∧ Fmt.width .d ≤ 64 ∧
    (0xFFFFFFFF3F800000#64).extractLsb' 32 (64 - 32) = BitVec.allOnes _ ∧
    (0xFFFFFFFE3F800000#64).extractLsb' 32 (64 - 32) ≠ BitVec.allOnes _ := by decide

theorem witness_FpArithmetic :
    Fmt.width .q ≤ State.reset.cfg.fbits ∧ Fmt.width .d ≤ m0.cfg.fbits ∧ Rounds m0 (.fixed .rmm) .rmm ∧
    Rounds { m0 with frm := 1 } .dyn .rtz := by
  unfold Rounds; decide

theorem witness_FpSelect : Fmt.width .q ≤ State.reset.cfg.fbits ∧ Fmt.width .d ≤ m0.cfg.fbits := by decide

theorem witness_FpToInteger :
    Fmt.width .q ≤ State.reset.cfg.fbits ∧ Fmt.width .d ≤ m0.cfg.fbits ∧ Fmt.width .d ≤ m0.cfg.xbits := by decide

theorem witness_FpConversions :
    Fmt.width .d ≤ m0.cfg.fbits ∧ Rounds m0 .dyn .rne ∧ m0.cfg.xlen = .rv64 ∧ Fmt.width .s ≤ m0.cfg.fbits ∧
    Fmt.s ≠ Fmt.d := by
  unfold Rounds; decide

theorem witness_FpIllegal :
    m0.cfg.fbits < Fmt.width .q ∧ m0.cfg.fbits < 128 ∧
    m0.cfg.fbits < (⟨.q, 63, 16, 18, true, true, ⟨.always, .one⟩⟩ : FrOps).fmt.width ∧
    m0.cfg.fbits < (⟨.q, 63, 16, true, true, ⟨.always, .one⟩⟩ : FiOps).fmt.width ∧
    m0.cfg.fbits < (⟨.q, 63, 16, 18, 20, true, true, ⟨.always, .one⟩⟩ : Fr4Ops).fmt.width ∧
    4 < ({ m0 with frm := 5 } : State).frm.toNat := by decide

theorem witness_EnvironmentCalls :
    mm.cfg.trapModel = .mmode ∧ m0.cfg.trapModel = .stop ∧ mm.cfg.ecallInfo = .zero ∧
    ({ m0 with cfg := { m0.cfg with ecallInfo := .pc } } : State).cfg.ecallInfo = .pc := ⟨rfl, rfl, rfl, rfl⟩

theorem witness_TrapReturn : mm.cfg.trapModel = .mmode ∧ m0.cfg.trapModel = .stop := ⟨rfl, rfl⟩

theorem witness_TrapThenReturn :
    mm.cfg.trapModel = .mmode ∧ mm.pc.toNat % 2 = 0 ∧ ∃ t, raise .breakpoint 0x1000 mm = .next t :=
  ⟨rfl, by decide, _, rfl⟩

theorem witness_CsrAccess :
    csrAt m0.cfg 0x800#12 = some .vl ∧ CsrTakes m0 .vl 64 ∧ csrAt m0.cfg 0x801#12 = some .vstart ∧
    CsrTakes m0 .vstart 63 ∧ csrAt mm.cfg 0x305#12 = some .mtvec ∧ CsrTakes mm .mtvec (2 ^ 64 - 1) ∧
    (setXs m0 [(5, 64)]).xr 5 = 64 ∧ (5#5) ≠ 0 := by
  unfold CsrTakes; decide +kernel

/-- The least illegal values of VL and Vstart, by CSRRW, CSRRS and CSRRSI. CSRRC and CSRRCI clear bits of the old value, so
they meet the clause only from an illegal VL or Vstart, in states that no run reaches. -/
theorem witness_CsrFaults :
    csrAt m0.cfg 0x7C0#12 = none ∧ csrAt m0.cfg 0x305#12 = none ∧ csrAt m0.cfg 0x800#12 = some .vl ∧
    m0.cfg.xbits < ((setXs m0 [(5, 65)]).xr 5).toNat ∧ csrAt m0.cfg 0x801#12 = some .vstart ∧
    m0.cfg.xbits ≤ ((setXs m0 [(5, 64)]).xr 5).toNat ∧
    (let s := (setXs m0 [(5, 1)]).setVl 64
     s.cfg.xbits < (BitVec.ofNat s.cfg.xbits (s.csrGet .vl) ||| s.xr 5).toNat) ∧
    (let s := { setXs m0 [(5, 64)] with vstart := 63 }
     s.cfg.xbits ≤ (BitVec.ofNat s.cfg.xbits (s.csrGet .vstart) ||| s.xr 5).toNat) ∧
    (let s := m32.setVl 32
     s.cfg.xbits < (BitVec.ofNat s.cfg.xbits (s.csrGet .vl) ||| (1#5).zeroExtend s.cfg.xbits).toNat) ∧
    (let s := m32.setVl 48
     s.cfg.xbits < (BitVec.ofNat s.cfg.xbits (s.csrGet .vl) &&& ~~~((15#5).zeroExtend s.cfg.xbits)).toNat) ∧
    (let s := { m32 with vstart := 33 }
     s.cfg.xbits ≤ (BitVec.ofNat s.cfg.xbits (s.csrGet .vstart) &&& ~~~((1#5).zeroExtend s.cfg.xbits)).toNat) := by
  decide +kernel

theorem witness_CsrMap :
    mm.cfg.csrVl ≠ mm.cfg.csrVstart ∧
    (∀ a ∈ [0x001#12, 0x002#12, 0x003#12, 0x300#12, 0x305#12, 0x340#12, 0x341#12, 0x342#12, 0x343#12],
      mm.cfg.csrVl ≠ a ∧ mm.cfg.csrVstart ≠ a) ∧ mm.cfg.flen ≠ .absent ∧ mm.cfg.trapModel = .mmode := by decide

/-- The requested lengths at which the clauses of SETVL meet, for imm = 8: twice imm and one more, imm and one more. -/
theorem witness_SetvlResult :
    64 ≤ m0.cfg.xbits ∧ m0.cfg.xbits < 65 ∧ ((setXs m0 [(5, 17)]).xr 5).toNat = 17 ∧ 2 * 8 < 17 ∧ ¬2 * 8 < 16 ∧ 8 < 9 ∧
    ¬8 < 8 := by decide +kernel

theorem witness_SetvlLegal :
    64 ≤ m0.cfg.xbits ∧ ∃ t, exec (.setvl 6 5 ⟨64, 0x0402830B⟩) (setXs m0 [(5, 129)]) = .next t :=
  ⟨by decide, next_of_isNext (by decide +kernel)⟩

/-- x126 and x127 hold the last two doublewords. -/
theorem witness_SvIntegerArithmetic : toTop.Fits (m0.setVl 2) := by
  unfold ROps.Fits OpdFits; decide +kernel

theorem witness_SvMultiplyDivide :
    toTop.vitp.itype.width m0.cfg.xbits = 64 ∧ m0.cfg.hasM = true ∧ toTop.Fits (m0.setVl 2) :=
  ⟨rfl, rfl, witness_SvIntegerArithmetic⟩

theorem witness_SvImmediate :
    (⟨63, 5, 0xFFF, true, false, ⟨.xl, .always, .one⟩⟩ : IOps).Fits (m0.setVl 2) ∧
    (⟨63, 0xFFFFF, true, ⟨.xl, .always, .one⟩⟩ : UOps).Fits (m0.setVl 2) := by
  unfold IOps.Fits UOps.Fits OpdFits; decide +kernel

theorem witness_SvShiftImmediate :
    (7#6).toNat < IType.width .b m0.cfg.xbits ∧ IType.width .b m0.cfg.xbits ≤ (8#6).toNat ∧
    (⟨63, 5, 7, true, false, ⟨.b, .always, .one⟩⟩ : ShOps).Fits (m0.setVl 16) := by
  unfold ShOps.Fits OpdFits; decide +kernel

theorem witness_SvFpTwoSource :
    Fmt.width .d ≤ m0.cfg.fbits ∧ Rounds m0 .dyn .rne ∧
    (⟨.d, 63, 16, 18, true, true, ⟨.always, .one⟩⟩ : FrOps).Fits (m0.setVl 2) .fp 64 ∧
    (⟨.d, 63, 16, 18, true, true, ⟨.always, .one⟩⟩ : FrOps).Fits (m0.setVl 2) .x m0.cfg.xbits := by
  unfold Rounds FrOps.Fits OpdFits; decide +kernel

theorem witness_SvFpOneSource :
    Fmt.width .d ≤ m0.cfg.fbits ∧ Rounds m0 .dyn .rne ∧ m0.cfg.xlen = .rv64 ∧ Fmt.width .d ≤ m0.cfg.xbits ∧
    oneTop.Fits (m0.setVl 2) .fp 64 .fp 64 ∧ oneTop.Fits (m0.setVl 2) .x 32 .fp 64 ∧
    oneTop.Fits (m0.setVl 2) .x 64 .fp 64 ∧ oneTop.Fits (m0.setVl 2) .fp 64 .x 32 ∧
    oneTop.Fits (m0.setVl 2) .fp 64 .x 64 ∧ oneTop.Fits (m0.setVl 2) .fp 64 .fp 32 ∧ Fmt.width .s ≤ m0.cfg.fbits ∧ Fmt.s ≠ Fmt.d := by
  unfold Rounds FiOps.Fits OpdFits
  refine ⟨?_, ?_, ?_, ?_, ?_, ?_, ?_, ?_, ?_, ?_, ?_, ?_⟩ <;> decide +kernel

theorem witness_SvFpFused :
    Fmt.width .d ≤ m0.cfg.fbits ∧ Rounds m0 .dyn .rne ∧
    (⟨.d, 63, 16, 18, 20, true, true, ⟨.always, .one⟩⟩ : Fr4Ops).Fits (m0.setVl 2) := by
  unfold Rounds Fr4Ops.Fits OpdFits; decide +kernel

/-- Four words fill x126 and x127; with no FP file, and on a gather. -/
theorem witness_SvLoads :
    MemForm.Here ⟨.svLw, .x, 32, false⟩ (at5 4) ∧
    (∀ k < indexCount (memIsVec (at5 4)) (at5 4), LoadReady .x 32 wordAt (at5 4) k) ∧
    OpdFits (dataOpd .x wordAt (at5 4)) 32 1 (memIsVec (at5 4)) .always (at5 4) ∧
    (∀ k < indexCount (memIsVec (m0.setVl 2)) (m0.setVl 2), LoadReady .x 32 ⟨8, 63, 0, .x, ⟨.always, .one⟩⟩ (m0.setVl 2) k) := by
  unfold MemForm.Here LoadReady AddrFits OpdFits; decide +kernel

theorem witness_SvStores :
    MemForm.Here ⟨.svSw, .x, 32, false⟩ (at5 4) ∧
    (∀ k < indexCount (memIsVec (at5 4)) (at5 4), StoreReady 32 wordAt (at5 4) k) ∧
    OpdFits (dataOpd .x wordAt (at5 4)) 32 1 (memIsVec (at5 4)) .always (at5 4) := by
  unfold MemForm.Here StoreReady AddrFits OpdFits; decide +kernel

/-- The forms named by the two witnesses above are among the forms. -/
theorem witness_forms : ⟨.svLw, .x, 32, false⟩ ∈ svLoadForms ∧ ⟨.svSw, .x, 32, false⟩ ∈ svStoreForms := by
  simp [svLoadForms, svStoreForms]

/-- Each row of the address table, with its code, and the literal case. -/
theorem witness_AddressTable :
    m0.cfg.ldstClass = .vectorData ∧ ({ m0 with cfg := { m0.cfg with ldstClass := .literal } } : State).cfg.ldstClass =
      .literal ∧ Lsk.c = Lsk.ofBits 0b0000#4 ∧ Lsk.x = Lsk.ofBits 0b0001#4 ∧ Lsk.si 0 = Lsk.ofBits 0b0010#4 ∧
    Lsk.si 5 = Lsk.ofBits 0b0111#4 ∧ Lsk.s 0 = Lsk.ofBits 0b1000#4 ∧ Lsk.s 7 = Lsk.ofBits 0b1111#4 := by decide

/-- The four kinds of rule R163 by hand: x5 = 0x2000, offset -4, words, svlen 2 (svsz = 8), sub-vector 3, element 1. -/
theorem test_addresses : ∀ p ∈ ([(.c, 0x2018), (.si 0, 0x2030), (.si 5, 0x20A8), (.s 7, 0x1FFA), (.x, 0x4000)] :
    List (Lsk × Nat)),
    elemAddr 32 ⟨16, 5, 0xFFC, p.1, ⟨.always, .two⟩⟩ (setXs m0 [(5, 0x2000), (15, 0xFFFFFFFFFFFFFFFE), (71, 0x4000)])
      (setXs m0 [(5, 0x2000), (15, 0xFFFFFFFFFFFFFFFE), (71, 0x4000)]) 3 1 = p.2 := by decide +kernel

/-- Index 1 of four is the first refused, at its only element. -/
theorem witness_SvTrapAtIndex :
    (let s := below 0x2004 (at5 4)
     MemForm.Here ⟨.svLw, .x, 32, false⟩ s ∧ OpdFits (dataOpd .x wordAt s) 32 1 (memIsVec s) wordAt.vtp.pred s ∧
     1 < indexCount (memIsVec s) s ∧ enabled wordAt.vtp.pred s (firstIndex (memIsVec s) s + 1) = true ∧
     AddrFits wordAt s (firstIndex (memIsVec s) s + 1) ∧ (∀ q < 1, LoadReady .x 32 wordAt s q) ∧
     RefusedAt s .load 32 (elemAddr 32 wordAt s (loadBefore .x 32 wordAt s 1) (firstIndex (memIsVec s) s + 1)) 1 0
       .loadAccessFault ∧
     (∀ q < 1, StoreReady 32 wordAt s q) ∧
     RefusedAt s .store 32 (elemAddr 32 wordAt s s (firstIndex (memIsVec s) s + 1)) 1 0 .storeAccessFault) := by
  unfold MemForm.Here OpdFits LoadReady StoreReady RefusedAt AddrFits
  refine ⟨?_, ?_, ?_, ?_, ?_, ?_, ?_, ?_, ?_⟩ <;> decide +kernel

/-- Index 1 of two, with two elements each, passes its access checks and hits the program text at its second. -/
theorem witness_SvTrapAtIndex_text :
    (let s := { at5 2 with cfg := { m0.cfg with text := [{ base := 0x200C, size := 1 }] } }
     let o : MemOps := { wordAt with vtp := ⟨.always, .two⟩ }
     MemForm.Here ⟨.svSw, .x, 32, false⟩ s ∧ OpdFits (dataOpd .x o s) 32 2 (memIsVec s) o.vtp.pred s ∧
     1 < indexCount (memIsVec s) s ∧ (∀ q < 1, StoreReady 32 o s q) ∧
     (∀ q < 2, s.checkAccess (elemAddr 32 o s s 1 q) 4 .store = none) ∧ HitsTextAt 32 o s 1 1) := by
  unfold MemForm.Here OpdFits StoreReady HitsTextAt AddrFits
  refine ⟨?_, ?_, ?_, ?_, ?_, ?_⟩ <;> decide +kernel

theorem witness_SvStoreResumes :
    (below 0x2004 (at5 4)).cfg.trapModel = .stop ∧ (below 0x2004 (at5 4)).pc.toNat % 2 = 0 ∧
    (∃ e info u, exec (.svSw wordAt) (below 0x2004 (at5 4)) = .fault (.trapped e info u)) ∧
    ∃ t, exec (.svSw wordAt) { below 0x2004 (at5 4) with cfg := { (below 0x2004 (at5 4)).cfg with
      backed := m0.cfg.backed } } = .next t :=
  ⟨rfl, rfl, trapped_of_isTrapped (by decide +kernel), next_of_isNext (by decide +kernel)⟩

/-- A third doubleword at x126, of an integer instruction or a conversion, and a fifth word of a load or store run past
x127; so does the third address of a gather at x126. -/
theorem witness_RegisterOverrun :
    (Instr.svAdd toTop).shape (m0.setVl 3) = some (toTop.shape true (m0.setVl 3)) ∧
    (toTop.shape true (m0.setVl 3)).legal = true ∧ ¬(toTop.shape true (m0.setVl 3)).Fits (m0.setVl 3) ∧
    ((oneTop.shape .x 64 .fp 64 true (m0.setVl 3)).legal = true ∧
      ¬(oneTop.shape .x 64 .fp 64 true (m0.setVl 3)).Fits (m0.setVl 3)) ∧
    (MemForm.Here ⟨.svLw, .x, 32, false⟩ (at5 5) ∧ 4 < indexCount (memIsVec (at5 5)) (at5 5) ∧
      (∀ q < 4, LoadReady .x 32 wordAt (at5 5) q) ∧ LoadReady .x 32 wordAt (at5 5) 4 ∧
      DataOverruns .x 32 wordAt (at5 5) 4 ∧ (∀ q < 4, StoreReady 32 wordAt (at5 5) q) ∧ StoreReady 32 wordAt (at5 5) 4) ∧
    ((∀ q < 2, LoadReady .x 32 ⟨8, 63, 0, .x, ⟨.always, .one⟩⟩ (m0.setVl 3) q) ∧
      (∀ q < 2, StoreReady 32 ⟨8, 63, 0, .x, ⟨.always, .one⟩⟩ (m0.setVl 3) q) ∧
      ¬AddrFits ⟨8, 63, 0, .x, ⟨.always, .one⟩⟩ (m0.setVl 3) (firstIndex (memIsVec m0) (m0.setVl 3) + 2)) := by
  unfold Shape.Fits OpdFits MemForm.Here LoadReady StoreReady DataOverruns AddrFits
  refine ⟨rfl, rfl, ?_, ⟨rfl, ?_⟩, ⟨?_, ?_, ?_, ?_, ?_, ?_, ?_⟩, ?_, ?_, ?_⟩ <;> decide +kernel

/-- An integer and a fused instruction, a shift by too much, and a load. -/
theorem witness_EmptyVector :
    m0.vl ≤ m0.vstart ∧ (toTop.shape true m0).legal = true ∧ (toTop.shape true m0).isVec = true ∧
    ((⟨.d, 63, 16, 18, 20, false, true, ⟨.always, .one⟩⟩ : Fr4Ops).shape true m0).legal = true ∧
    ((⟨.d, 63, 16, 18, 20, false, true, ⟨.always, .one⟩⟩ : Fr4Ops).shape true m0).isVec = true ∧
    ((⟨63, 5, 8, true, false, ⟨.b, .always, .one⟩⟩ : ShOps).shape m0).legal = false ∧
    m0.cfg.ldstClass = .vectorData ∧ MemForm.Here ⟨.svLw, .x, 32, false⟩ m0 := by
  unfold MemForm.Here; decide

/-- A scalar ADD, and a load under LDST_CLASS = literal. -/
theorem witness_ScalarPrefixed :
    ((⟨7, 5, 6, false, false, ⟨.b, .always, .four⟩⟩ : ROps).shape true m0).isVec = false ∧
    (∃ t, exec (.svAdd ⟨7, 5, 6, false, false, ⟨.b, .always, .four⟩⟩) m0 = .next t) ∧
    ∃ t, exec (.svLw wordAt) { m0 with cfg := { m0.cfg with ldstClass := .literal } } = .next t :=
  ⟨rfl, next_of_isNext (by decide +kernel), next_of_isNext (by decide +kernel)⟩

theorem witness_UnprefixedIgnoreVector :
    ¬Prefixed (.addi 5 0 5) ∧ ¬SetvlInstr (.addi 5 0 5) ∧ ¬CsrInstr (.addi 5 0 5) ∧
    ∃ t, exec (.addi 5 0 5) m0 = .next t :=
  ⟨by unfold Prefixed; decide, fun ⟨_, _, _, h⟩ => (nomatch h), by rintro ⟨_, _, _, h⟩; simp at h,
    next_of_isNext (by decide +kernel)⟩

theorem witness_OnlyStoresWriteMemory :
    ¬StoreInstr (.addi 5 0 5) ∧ ∃ t, exec (.addi 5 0 5) m0 = .next t :=
  ⟨by rintro (⟨_, h⟩ | ⟨_, _, _, h⟩) <;> simp at h, next_of_isNext (by decide +kernel)⟩

theorem witness_OnlyCsrInstructions :
    (∃ t, exec (.faddFmt .s .dyn 1 2 3) m0 = .next t) ∧ ¬CsrInstr (.faddFmt .s .dyn 1 2 3) :=
  ⟨next_of_isNext (by decide +kernel), by rintro ⟨_, _, _, h⟩; simp at h⟩

end Sys2Proof.Tests
end

section
/-! PROOFS. What every instruction but the CSR ones keeps. A relation between states that holds across each update of
the state (`UpdateClosed`) holds across every such instruction (`UpdateClosed.nextRel_exec`): the shared forms are
treated once, and the instructions are then a case split over those forms. -/

namespace Sys2Proof.Machine

/-- A preorder on states that holds across each update of the state that an instruction makes, memory writes and CSR
writes aside. -/
structure UpdateClosed (R : State → State → Prop) : Prop where
  refl : ∀ s, R s s
  trans : ∀ {s t u}, R s t → R t u → R s u
  setPc : ∀ s v, R s (s.setPc v)
  elemPut : ∀ s f n k w (v : BitVec w), R s (s.elemPut f n k w v)
  orFlags : ∀ s f, R s (s.orFlags f)
  setVl : ∀ s n, R s (s.setVl n)
  setVstart : ∀ s n, R s (s.setVstart n)
  setStatus : ∀ s a b, R s (s.setStatus a b)
  traps : ∀ {s t e info}, Traps s t e info → R s t

/-- The relation holds across each memory write. -/
def MemPutClosed (R : State → State → Prop) : Prop := ∀ s a w (v : BitVec w), R s (s.memPut a w v)

/-- The state `s` is related to the next state, where the outcome is one. -/
structure NextRel (R : State → State → Prop) (s : State) (o : Out) : Prop where
  next : ∀ t, o = .next t → R s t

theorem nextRel_next {R : State → State → Prop} {s t : State} (h : R s t) : NextRel R s (.next t) :=
  ⟨fun _ ht => Host.Outcome.next.inj ht ▸ h⟩

theorem nextRel_fault {R : State → State → Prop} (s : State) (r : Fault) : NextRel R s (.fault r) :=
  ⟨fun _ ht => by cases ht⟩

/-- An exception answers a next state only by entering the trap. -/
theorem Raises.traps_of_next {o : Out} {s t : State} {e : Exc} {info : Nat} (h : Raises o s e info) (ht : o = .next t) :
    Traps s t e info := by
  obtain ⟨hstop, hmmode⟩ := h
  cases hm : s.cfg.trapModel with
  | stop => rw [hstop hm] at ht; cases ht
  | mmode =>
    obtain ⟨u, hu, htraps⟩ := hmmode hm
    rw [hu] at ht
    exact Host.Outcome.next.inj ht ▸ htraps

namespace UpdateClosed

section
variable {R : State → State → Prop} (hR : UpdateClosed R)
include hR

/-! ## Exceptions and legality -/

theorem nextRel_raise {s u : State} (h : R s u) (e : Exc) (info : Nat) : NextRel R s (raise e info u) :=
  ⟨fun _ ht => hR.trans h (hR.traps ((raise_raises e info u).traps_of_next ht))⟩

theorem nextRel_legally {s : State} {k : Out} (h : NextRel R s k) (ok : Bool) (i : Instr) :
    NextRel R s (legally ok i s k) := by
  rcases legally_cases ok i s k with ⟨-, hrun⟩ | ⟨-, hill⟩
  · rwa [hrun]
  · rw [hill]
    exact hR.nextRel_raise (hR.refl s) ..

theorem nextRel_rounded {s : State} {k : RoundMode → Out} (h : ∀ m, NextRel R s (k m)) (rm : Rm) (i : Instr) :
    NextRel R s (rounded rm i s k) := by
  unfold rounded
  split
  · exact h _
  · exact hR.nextRel_raise (hR.refl s) ..

/-! ## The shared forms of the unprefixed instructions -/

theorem rel_advance (s : State) (n : Nat) : R s (s.advance n) := hR.setPc ..

theorem nextRel_retireX (s : State) (w : Nat) (rd : BitVec 5) (v : BitVec w) : NextRel R s (s.retireX w rd v) :=
  nextRel_next (hR.trans (hR.elemPut ..) (hR.rel_advance ..))

theorem nextRel_retireXFlags (s : State) (rd : BitVec 5) (r : Fp.Res s.cfg.xbits) : NextRel R s (s.retireXFlags rd r) :=
  nextRel_next (hR.trans (hR.trans (hR.elemPut ..) (hR.orFlags ..)) (hR.rel_advance ..))

theorem nextRel_retireF (s : State) {w : Nat} (rd : BitVec 5) (r : Fp.Res w) : NextRel R s (s.retireF rd r) :=
  nextRel_next (hR.trans (hR.trans (hR.elemPut ..) (hR.orFlags ..)) (hR.rel_advance ..))

theorem nextRel_baseLoad {s : State} {w : Nat} {k : BitVec w → State} (h : ∀ v, R s (k v)) (rs1 : BitVec 5)
    (imm : BitVec 12) : NextRel R s (baseLoad w rs1 imm s k) := by
  unfold baseLoad
  dsimp only
  split
  · exact hR.nextRel_raise (hR.refl s) ..
  · exact nextRel_next (hR.trans (h _) (hR.rel_advance ..))

theorem nextRel_baseStore (hM : MemPutClosed R) (w : Nat) (rs1 : BitVec 5) (imm : BitVec 12) (v : BitVec w)
    (s : State) : NextRel R s (baseStore w rs1 imm v s) := by
  unfold baseStore
  dsimp only
  split
  · exact hR.nextRel_raise (hR.refl s) ..
  · split
    · exact nextRel_fault ..
    · exact nextRel_next (hR.trans (hM ..) (hR.rel_advance ..))

theorem nextRel_branchIf (taken : Bool) (imm : BitVec 12) (s : State) : NextRel R s (branchIf taken imm s) := by
  cases taken <;> exact nextRel_next (hR.setPc ..)

theorem nextRel_execSetvl (rd rs1 : BitVec 5) (imm : SetvlImm) (s : State) : NextRel R s (execSetvl rd rs1 imm s) :=
  hR.nextRel_legally (nextRel_next (hR.trans (hR.trans (hR.setVl ..) (hR.elemPut ..)) (hR.rel_advance ..))) ..

/-! ## The loop of the prefixed instructions -/

/-- The bookkeeping on Vstart at the loop's end. -/
theorem rel_setVstart_if (isvec : Bool) (s : State) (n : Nat) : R s (if isvec then s.setVstart n else s) := by
  cases isvec
  · exact hR.refl s
  · exact hR.setVstart ..

/-- A prefixed instruction whose commits are related states: the states of the loop are related to the start, and so is
the end of it. -/
theorem nextRel_execPrefixed {op : SubOp} (h : ∀ u i, R u (op.commit u i)) (isvec : Bool) (p : Pred) (s : State) :
    NextRel R s (execPrefixed isvec p op s) := by
  have hbefore := stateBefore_keeps (P := R s) (enabled p s) op (firstIndex isvec s) s (hR.refl s)
    (fun u i hu => hR.trans hu (h u i))
  rcases execPrefixed_cases isvec p op s with hdone | ⟨k, st, -, -, -, hstop⟩
  · rw [hdone]
    exact nextRel_next (hR.trans (hR.trans (hbefore _) (hR.rel_setVstart_if ..)) (hR.rel_advance ..))
  · rw [hstop]
    cases st with
    | exception e info => exact hR.nextRel_raise (hR.trans (hbefore _) (hR.rel_setVstart_if ..)) ..
    | modelFault r => exact nextRel_fault ..

theorem rel_putEach {put : State → Nat → State} (h : ∀ u j, R u (put u j)) (n j : Nat) (s : State) :
    R s (putEach put n j s) := by
  induction n generalizing j s with
  | zero => exact hR.refl s
  | succ n ih => exact hR.trans (h s j) (ih ..)

theorem rel_commit_loadOp (dst : Opd) (w : Nat) (o : MemOps) (s : State) :
    ∀ u i, R u ((loadOp dst w o s).commit u i) := fun _ _ =>
  hR.rel_putEach (fun _ _ => hR.elemPut ..) ..

theorem rel_commit_storeOp (hM : MemPutClosed R) (src : Opd) (w : Nat) (o : MemOps) (s : State) :
    ∀ u i, R u ((storeOp src w o s).commit u i) := fun _ _ =>
  hR.rel_putEach (fun _ _ => hM ..) ..

theorem rel_commit_elementwise (n : Nat) (dst : Opd) (w : Nat) (srcs : List SizedOpd)
    (f : State → Nat → Nat → Fp.Res w) : ∀ u i, R u ((elementwise n dst w srcs f).commit u i) := fun _ _ =>
  hR.trans (hR.rel_putEach (fun _ _ => hR.elemPut ..) ..) (hR.orFlags ..)

theorem nextRel_svLoad (file : RegFile) (w : Nat) (o : MemOps) (s : State) : NextRel R s (svLoad file w o s) :=
  hR.nextRel_execPrefixed (hR.rel_commit_loadOp _ w o s) ..

theorem nextRel_svStore (hM : MemPutClosed R) (file : RegFile) (w : Nat) (o : MemOps) (s : State) :
    NextRel R s (svStore file w o s) :=
  hR.nextRel_execPrefixed (hR.rel_commit_storeOp hM _ w o s) ..

/-- Every prefixed computation: its exception or its element-wise run. -/
theorem nextRel_doesShape {o : Out} {s : State} {i : Instr} {h : Shape} (hd : DoesShape o s i h) : NextRel R s o := by
  obtain ⟨hillegal, hlegal⟩ := hd
  cases hl : h.legal with
  | false => exact ⟨fun t ht => hR.traps ((hillegal hl).traps_of_next ht)⟩
  | true =>
    obtain ⟨dst, w, srcs, f, -, rfl⟩ := hlegal hl
    exact hR.nextRel_execPrefixed (hR.rel_commit_elementwise _ dst w srcs f) ..

/-! ## Every instruction -/

/-- Every instruction but the CSR ones keeps the relation, which must hold across memory writes
only where the instruction is a store. -/
theorem nextRel_exec {i : Instr} (s : State) (hcsr : ¬CsrInstr i) (hM : StoreInstr i → MemPutClosed R) :
    NextRel R s (exec i s) := by
  cases hs : i.shape s with
  | some h => exact hR.nextRel_doesShape (exec_of_shape hs)
  | none =>
    cases i with
    | svLb | svLh | svLw | svLbu | svLhu => exact hR.nextRel_svLoad ..
    | svLd | svLwu | svFlh | svFlw | svFld | svFlq => exact hR.nextRel_legally (hR.nextRel_svLoad ..) ..
    | svSb | svSh | svSw => exact hR.nextRel_svStore (hM (by simp [StoreInstr])) ..
    | svSd | svFsh | svFsw | svFsd | svFsq =>
      exact hR.nextRel_legally (hR.nextRel_svStore (hM (by simp [StoreInstr])) ..) ..
    | setvl => exact hR.nextRel_execSetvl ..
    | lui | auipc | addi | slti | sltiu | xori | ori | andi | add | sub | sll | slt | sltu | xor | srl | sra | or | and =>
      exact hR.nextRel_retireX ..
    | slli | srli | srai | addiw | slliw | srliw | sraiw | addw | subw | sllw | srlw | sraw | mul | mulh | mulhsu | mulhu
    | div | divu | rem | remu | mulw | divw | divuw | remw | remuw =>
      exact hR.nextRel_legally (hR.nextRel_retireX ..) ..
    | lb | lh | lw | lbu | lhu => exact hR.nextRel_baseLoad (fun _ => hR.elemPut ..) ..
    | ld | lwu | flh | flw | fld | flq =>
      exact hR.nextRel_legally (hR.nextRel_baseLoad (fun _ => hR.elemPut ..) ..) ..
    | sb | sh | sw => exact hR.nextRel_baseStore (hM (by simp [StoreInstr])) ..
    | sd | fsh | fsw | fsd | fsq => exact hR.nextRel_legally (hR.nextRel_baseStore (hM (by simp [StoreInstr])) ..) ..
    | faddFmt | fsubFmt | fmulFmt | fdivFmt | fsqrtFmt | fcvtFmtW | fcvtFmtWu | fcvtFmtL | fcvtFmtLu | fcvtFmtFmt
    | fmaddFmt | fmsubFmt | fnmsubFmt | fnmaddFmt =>
      exact hR.nextRel_legally (hR.nextRel_rounded (fun _ => hR.nextRel_retireF ..) ..) ..
    | fcvtWFmt | fcvtWuFmt | fcvtLFmt | fcvtLuFmt =>
      exact hR.nextRel_legally (hR.nextRel_rounded (fun _ => hR.nextRel_retireXFlags ..) ..) ..
    | fsgnjFmt | fsgnjnFmt | fsgnjxFmt | fminFmt | fmaxFmt | fmvFmtX =>
      exact hR.nextRel_legally (hR.nextRel_retireF ..) ..
    | feqFmt | fltFmt | fleFmt | fmvXFmt | fclassFmt => exact hR.nextRel_legally (hR.nextRel_retireXFlags ..) ..
    | jal | jalr => exact nextRel_next (hR.trans (hR.elemPut ..) (hR.setPc ..))
    | beq | bne | blt | bge | bltu | bgeu => exact hR.nextRel_branchIf ..
    | fence | fenceI => exact nextRel_next (hR.rel_advance ..)
    | ecall | ebreak => exact hR.nextRel_raise (hR.refl s) ..
    | mret => exact hR.nextRel_legally (nextRel_next (hR.trans (hR.setStatus ..) (hR.setPc ..))) ..
    | csrrw | csrrs | csrrc | csrrwi | csrrsi | csrrci => exact absurd (by simp [CsrInstr]) hcsr
    | _ => exact nomatch hs

end

end UpdateClosed

/-! ## The parameters, the rounding mode, the flags, and the trap vector and scratch registers -/

/-- The parameters, the rounding mode, the trap vector and the scratch register are kept, and no accrued FP flag is
cleared (rules R6, R38, R264, R390). -/
structure KeepsControl (s t : State) : Prop where
  cfg : t.cfg = s.cfg
  fflags : t.fflags ||| s.fflags = t.fflags
  frm : t.frm = s.frm
  mtvec : t.mtvec = s.mtvec
  mscratch : t.mscratch = s.mscratch

theorem KeepsControl.of_eq {s t : State} (hcfg : t.cfg = s.cfg) (hfflags : t.fflags = s.fflags) (hfrm : t.frm = s.frm)
    (hmtvec : t.mtvec = s.mtvec) (hmscratch : t.mscratch = s.mscratch) : KeepsControl s t :=
  ⟨hcfg, by rw [hfflags, BitVec.or_self], hfrm, hmtvec, hmscratch⟩

theorem KeepsControl.trans {s t u : State} (h : KeepsControl s t) (h' : KeepsControl t u) : KeepsControl s u where
  cfg := h'.cfg.trans h.cfg
  fflags := by
    calc u.fflags ||| s.fflags
        = u.fflags ||| (t.fflags ||| s.fflags) := by rw [← BitVec.or_assoc, h'.fflags]
      _ = u.fflags := by rw [h.fflags, h'.fflags]
  frm := h'.frm.trans h.frm
  mtvec := h'.mtvec.trans h.mtvec
  mscratch := h'.mscratch.trans h.mscratch

/-- Flags accrue (rule R264). -/
theorem KeepsControl.orFlags (s : State) (f : BitVec 5) : KeepsControl s (s.orFlags f) where
  cfg := rfl
  fflags := by
    show (s.fflags ||| f) ||| s.fflags = s.fflags ||| f
    rw [BitVec.or_comm, ← BitVec.or_assoc, BitVec.or_self]
  frm := rfl
  mtvec := rfl
  mscratch := rfl

theorem KeepsControl.traps {s t : State} {e : Exc} {info : Nat} (h : Traps s t e info) : KeepsControl s t := by
  rw [Traps] at h
  subst h
  exact .of_eq rfl rfl rfl rfl rfl

theorem updateClosed_keepsControl : UpdateClosed KeepsControl where
  refl _ := .of_eq rfl rfl rfl rfl rfl
  trans := .trans
  setPc _ _ := .of_eq rfl rfl rfl rfl rfl
  elemPut _ _ _ _ _ _ := .of_eq (by simp) (by simp) (by simp) (by simp) (by simp)
  orFlags := .orFlags
  setVl _ _ := .of_eq rfl rfl rfl rfl rfl
  setVstart _ _ := .of_eq rfl rfl rfl rfl rfl
  setStatus _ _ _ := .of_eq rfl rfl rfl rfl rfl
  traps := .traps

theorem memPutClosed_keepsControl : MemPutClosed KeepsControl := fun _ _ _ _ => .of_eq rfl rfl rfl rfl rfl

/-! ## The CSR instructions -/

@[simp] theorem State.csrPut_cfg (s : State) (c : Csr) (v : Nat) : (s.csrPut c v).cfg = s.cfg := by cases c <;> rfl

theorem csrAccess_cfg (rd : BitVec 5) (a : BitVec 12) (write : Option ((w : Nat) → BitVec w → BitVec w)) (s : State) :
    NextRel (fun s t => t.cfg = s.cfg) s (csrAccess rd a write s) := by
  unfold csrAccess
  dsimp only
  split
  · exact nextRel_fault ..
  · split
    · exact nextRel_next (by simp)
    · split
      · exact nextRel_next (by simp)
      · exact nextRel_fault ..

theorem exec_cfg_of_csrInstr {i : Instr} (s : State) (h : CsrInstr i) :
    NextRel (fun s t => t.cfg = s.cfg) s (exec i s) := by
  obtain ⟨rd, r, a, rfl | rfl | rfl | rfl | rfl | rfl⟩ := h <;>
    simp only [exec, execCsrrw, execCsrrs, execCsrrc, execCsrrwi, execCsrrsi, execCsrrci, csrAccess_cfg]

/-- Settles O60: every update of the state outside the CSR instructions keeps what `KeepsControl` lists, and a CSR
instruction keeps the parameters. -/
theorem onlyCsrInstructions : Obligations.OnlyCsrInstructions := by
  intro i s t hexec
  by_cases hcsr : CsrInstr i
  · exact ⟨(exec_cfg_of_csrInstr s hcsr).next t hexec, fun hn => absurd hcsr hn⟩
  · have h := (updateClosed_keepsControl.nextRel_exec s hcsr fun _ => memPutClosed_keepsControl).next t hexec
    exact ⟨h.cfg, fun _ => ⟨h.fflags, h.frm, h.mtvec, h.mscratch⟩⟩

end Sys2Proof.Machine
end

section
/-! PROOFS. The invariant of every step (`State.Inv`). Each update of the state keeps it where its operands are legal;
the shared forms of the instructions follow, and the instructions are a case split over those forms. A sub-vector
operation keeps it because its check has passed: the elements it writes lie in the register file. -/

namespace Sys2Proof.Machine

/-! ## Register files -/

/-- The part of the invariant that speaks of one register file (rules R20, R21, R24). -/
structure RegsOk (s : State) (g : RegFile) : Prop where
  wf : ByteMap.wf (s.regs g) = true
  range : ∀ c ∈ s.regs g, s.firstByte g ≤ c.1 ∧ c.1 < 128 * s.rb g

theorem State.Inv.regsOk {s : State} (h : s.Inv) : ∀ g, RegsOk s g
  | .x => ⟨h.xregs, h.xrange⟩
  | .fp => ⟨h.fregs, fun c hc => ⟨Nat.zero_le _, h.frange c hc⟩⟩

theorem State.Inv.withRegs {s : State} (h : s.Inv) {x f : ByteMap} (hr : ∀ g, RegsOk (s.withRegs x f) g) :
    (s.withRegs x f).Inv :=
  { h with
    xregs := (hr .x).wf, xrange := (hr .x).range, fregs := (hr .fp).wf, frange := fun c hc => ((hr .fp).range c hc).2 }

theorem RegsOk.elemPut {s : State} {g f : RegFile} {n k w : Nat} (h : RegsOk s g)
    (hfits : s.elemByte f n k w + w / 8 ≤ 128 * s.rb f) (v : BitVec w) : RegsOk (s.elemPut f n k w v) g where
  wf := s.regs_setRegBytes_wf f g _ _ _ h.wf
  range c hc := by
    rw [State.elemPut_firstByte, State.elemPut_rb]
    rcases s.mem_regs_setRegBytes f g _ _ _ hc with hc | ⟨rfl, hfirst, -, hlast⟩
    · exact h.range c hc
    · exact ⟨hfirst, by omega⟩

theorem State.Inv.elemPut {s : State} (h : s.Inv) {f : RegFile} {n k w : Nat}
    (hfits : s.elemByte f n k w + w / 8 ≤ 128 * s.rb f) (v : BitVec w) : (s.elemPut f n k w v).Inv := by
  have hr := fun g => (h.regsOk g).elemPut hfits v
  rw [State.elemPut_eq] at hr ⊢
  exact h.withRegs hr

/-- A whole register that an unprefixed instruction names lies in the file. -/
theorem State.reg_fits (s : State) (f : RegFile) (rd : BitVec 5) {w : Nat} (hw : w / 8 = s.rb f) :
    s.elemByte f rd.toNat 0 w + w / 8 ≤ 128 * s.rb f := by
  have hgap : rd.toNat * s.rb f + s.rb f ≤ 128 * s.rb f := mul_gap (by omega)
  unfold State.elemByte
  omega

theorem State.Inv.putX {s : State} (h : s.Inv) {w : Nat} (hw : w = s.cfg.xbits) (rd : BitVec 5) (v : BitVec w) :
    (s.putX w rd.toNat v).Inv :=
  h.elemPut (s.reg_fits .x rd (by rw [hw]; rfl)) v

theorem State.Inv.putF {s : State} (h : s.Inv) (rd : BitVec 5) (v : BitVec s.cfg.fbits) :
    (s.putF s.cfg.fbits rd.toNat v).Inv :=
  h.elemPut (s.reg_fits .fp rd rfl) v

/-! ## Memory, flags, VL and Vstart -/

theorem State.Inv.memPut {s : State} (h : s.Inv) (a w : Nat) (v : BitVec w) : (s.memPut a w v).Inv :=
  { h with mem := s.memPut_wf a w v h.mem, memRange := s.memPut_range a w v h.memRange }

theorem State.Inv.setFflags {s : State} (h : s.Inv) (f : BitVec 5) : (s.setFflags f).Inv := { h with cfg := h.cfg }

theorem State.Inv.orFlags {s : State} (h : s.Inv) (f : BitVec 5) : (s.orFlags f).Inv := h.setFflags _

theorem State.Inv.setVl {s : State} (h : s.Inv) {v : Nat} (hv : v ≤ s.cfg.xbits) : (s.setVl v).Inv :=
  { h with vl := hv }

theorem State.Inv.setVstart {s : State} (h : s.Inv) {v : Nat} (hv : v < s.cfg.xbits) : (s.setVstart v).Inv :=
  { h with vstart := hv }

/-! ## The program counter -/

theorem State.two_dvd_span (s : State) : 2 ∣ 2 ^ s.cfg.xbits := dvd_pow_self 2 (xbits_pos s.cfg).ne'

/-- A branch or jump target is even where the offset is. -/
theorem State.pcAt_add_even {s : State} (h : s.Inv) {d : BitVec s.cfg.xbits} (hd : d.toNat % 2 = 0) :
    (s.pcAt s.cfg.xbits + d).toNat % 2 = 0 := by
  have hpc := h.pcEven
  rw [BitVec.toNat_add, Nat.mod_mod_of_dvd _ s.two_dvd_span, Nat.add_mod, State.pcAt_toNat,
    Nat.mod_mod_of_dvd _ s.two_dvd_span, hpc, hd]

theorem toNat_even_iff {w : Nat} (v : BitVec w) : v.toNat % 2 = 0 ↔ v.getLsbD 0 = false := by
  rw [BitVec.getLsbD, Nat.testBit_zero]
  simp

/-- Branch and jump offsets are even: bit 0 of their immediates is not encoded (rule R332). -/
theorem offset_even {n : Nat} (w : Nat) (imm : BitVec n) : ((imm ++ 0#1).signExtend w).toNat % 2 = 0 := by
  rw [toNat_even_iff, BitVec.getLsbD_signExtend, BitVec.getLsbD_append]
  simp

theorem State.Inv.goto {s : State} (h : s.Inv) {w : Nat} (hw : w = s.cfg.xbits) {v : BitVec w}
    (hv : v.toNat % 2 = 0) : (s.goto w v).Inv := by
  subst hw
  have hpc := s.goto_pc_toNat v
  exact { h with pcEven := hpc ▸ hv, pcRange := hpc ▸ v.isLt }

theorem State.Inv.advance {s : State} (h : s.Inv) {n : Nat} (hn : n % 2 = 0) : (s.advance n).Inv := by
  refine h.goto rfl (State.pcAt_add_even h ?_)
  rw [BitVec.toNat_ofNat, Nat.mod_mod_of_dvd _ s.two_dvd_span, hn]

/-! ## Exceptions -/

/-- A word holds a number modulo 2^64, so a bound on the number bounds the word. -/
theorem word_lt {v n : Nat} (h : v < n) : (BitVec.ofNat 64 v).toNat < n := lt_of_le_of_lt (Nat.mod_le ..) h

/-- Clearing the low bits of a word rounds it down to a multiple, which is even. -/
theorem word_mul_even (v : Nat) {k : Nat} (hk : k % 2 = 0) : (BitVec.ofNat 64 (v * k)).toNat % 2 = 0 := by
  rw [BitVec.toNat_ofNat, Nat.mod_mod_of_dvd _ (by decide), Nat.mul_mod, hk, Nat.mul_zero, Nat.zero_mod]

theorem State.Inv.traps {s t : State} (h : s.Inv) {e : Exc} {info : Nat} (ht : Traps s t e info) : t.Inv := by
  obtain ⟨hmtvec, -, -, hmscratch⟩ := h.trapRange
  have hcode : e.code < s.span := lt_of_lt_of_le (by cases e <;> decide) s.two_pow_32_le_span
  have hinfo : info % 2 ^ s.cfg.xbits < s.span := Nat.mod_lt _ s.span_pos
  have htarget : s.mtvec.toNat / 4 * 4 < s.span := lt_of_le_of_lt (Nat.div_mul_le_self ..) hmtvec
  have hsaved : s.pc.toNat / 2 * 2 < s.span := lt_of_le_of_lt (Nat.div_mul_le_self ..) h.pcRange
  rw [Traps] at ht
  subst ht
  exact { h with
    pcEven := word_mul_even _ rfl, pcRange := word_lt htarget, mepc := ⟨word_lt hsaved, word_mul_even _ rfl⟩,
    trapRange := ⟨hmtvec, word_lt hcode, word_lt hinfo, hmscratch⟩ }

theorem State.Inv.trapReturn {s : State} (h : s.Inv) : s.trapReturn.Inv := by
  have hpc : s.mepcValue = BitVec.ofNat 64 (s.mepc.toNat / 2 * 2) := clear_low s.mepc 1
  have htarget : s.mepc.toNat / 2 * 2 < s.span := lt_of_le_of_lt (Nat.div_mul_le_self ..) h.mepc.1
  rw [State.trapReturn, hpc]
  exact { h with pcEven := word_mul_even _ rfl, pcRange := word_lt htarget }

/-! ## CSR writes -/

theorem State.Inv.csrPut {s : State} (h : s.Inv) {c : Csr} {v : Nat} (hlegal : csrLegal s.cfg c v = true)
    (hv : v < s.span) : (s.csrPut c v).Inv := by
  obtain ⟨hmtvec, hmcause, hmtval, hmscratch⟩ := h.trapRange
  cases c with
  | vl => exact h.setVl (of_decide_eq_true hlegal)
  | vstart => exact h.setVstart (of_decide_eq_true hlegal)
  | fflags | frm | fcsr | mstatus => exact { h with cfg := h.cfg }
  | mtvec => exact { h with trapRange := ⟨word_lt hv, hmcause, hmtval, hmscratch⟩ }
  | mscratch => exact { h with trapRange := ⟨hmtvec, hmcause, hmtval, word_lt hv⟩ }
  | mcause => exact { h with trapRange := ⟨hmtvec, word_lt hv, hmtval, hmscratch⟩ }
  | mtval => exact { h with trapRange := ⟨hmtvec, hmcause, word_lt hv, hmscratch⟩ }
  | mepc =>
    have hmepc : (s.csrPut .mepc v).mepc = BitVec.ofNat 64 ((BitVec.ofNat 64 v).toNat / 2 * 2) := clear_low _ 1
    have hlt := lt_of_le_of_lt (Nat.div_mul_le_self _ 2) (word_lt hv)
    exact { h with mepc := hmepc ▸ ⟨word_lt hlt, word_mul_even _ rfl⟩ }

/-! ## Outcomes: the shared forms of the unprefixed instructions -/

/-- The next state, where the outcome is one, satisfies the invariant. -/
structure NextInv (o : Out) : Prop where
  next : ∀ t, o = .next t → t.Inv

theorem nextInv_next {s : State} (h : s.Inv) : NextInv (.next s) :=
  ⟨fun _ ht => Host.Outcome.next.inj ht ▸ h⟩

theorem nextInv_fault (r : Fault) : NextInv (.fault r) := ⟨fun _ ht => by cases ht⟩

theorem State.Inv.raise {s : State} (h : s.Inv) (e : Exc) (info : Nat) : NextInv (raise e info s) :=
  ⟨fun _ ht => h.traps ((raise_raises e info s).traps_of_next ht)⟩

theorem State.Inv.legally {s : State} (h : s.Inv) {k : Out} (hk : NextInv k) (ok : Bool) (i : Instr) :
    NextInv (legally ok i s k) := by
  cases ok
  · exact h.raise ..
  · exact hk

theorem State.Inv.rounded {s : State} (h : s.Inv) {k : RoundMode → Out} (hk : ∀ m, NextInv (k m)) (rm : Rm)
    (i : Instr) : NextInv (rounded rm i s k) := by
  unfold Machine.rounded
  split
  · exact hk _
  · exact h.raise ..

theorem State.Inv.retireX {s : State} (h : s.Inv) {w : Nat} (hw : w = s.cfg.xbits) (rd : BitVec 5) (v : BitVec w) :
    NextInv (s.retireX w rd v) :=
  nextInv_next ((h.putX hw rd v).advance rfl)

theorem State.Inv.retireXFlags {s : State} (h : s.Inv) (rd : BitVec 5) (r : Fp.Res s.cfg.xbits) :
    NextInv (s.retireXFlags rd r) :=
  nextInv_next (((h.putX rfl rd r.1).orFlags r.2).advance rfl)

theorem State.Inv.retireF {s : State} (h : s.Inv) {w : Nat} (rd : BitVec 5) (r : Fp.Res w) :
    NextInv (s.retireF rd r) :=
  nextInv_next (((h.putF rd _).orFlags r.2).advance rfl)

theorem State.Inv.baseLoad {s : State} (h : s.Inv) {w : Nat} {k : BitVec w → State} (hk : ∀ v, (k v).Inv)
    (rs1 : BitVec 5) (imm : BitVec 12) : NextInv (baseLoad w rs1 imm s k) := by
  unfold Machine.baseLoad
  dsimp only
  split
  · exact h.raise ..
  · exact nextInv_next ((hk _).advance rfl)

theorem State.Inv.baseStore {s : State} (h : s.Inv) (w : Nat) (rs1 : BitVec 5) (imm : BitVec 12) (v : BitVec w) :
    NextInv (baseStore w rs1 imm v s) := by
  unfold Machine.baseStore
  dsimp only
  split
  · exact h.raise ..
  · split
    · exact nextInv_fault _
    · exact nextInv_next ((h.memPut ..).advance rfl)

theorem State.Inv.branchIf {s : State} (h : s.Inv) (taken : Bool) (imm : BitVec 12) :
    NextInv (branchIf taken imm s) := by
  cases taken
  · exact nextInv_next (h.advance rfl)
  · exact nextInv_next (h.goto rfl (State.pcAt_add_even h (offset_even _ imm)))

/-- VL is at most XLEN after `setvl` (rule R313): each step of rule R311 leaves it at most its immediate or XLEN. -/
theorem newVl_le {c : Config} {imm : Nat} (himm : imm ≤ c.xbits) (useImm : Bool) (avl : Nat) :
    newVl c useImm imm avl ≤ c.xbits := by
  unfold newVl
  split
  · exact himm
  · split
    · split
      · exact le_refl _
      · exact himm
    · split <;> omega

theorem State.Inv.execSetvl {s : State} (h : s.Inv) (rd rs1 : BitVec 5) (imm : SetvlImm) :
    NextInv (execSetvl rd rs1 imm s) := by
  unfold Machine.execSetvl
  dsimp only
  by_cases himm : imm.value ≤ s.cfg.xbits
  · refine h.legally (nextInv_next ?_) ..
    exact ((h.setVl (newVl_le himm ..)).putX rfl rd _).advance (by simpa using h.cfg.setvlLen)
  · rw [decide_eq_false himm]
    exact h.raise ..

theorem State.Inv.csrAccess {s : State} (h : s.Inv) (rd : BitVec 5) (a : BitVec 12)
    (write : Option ((w : Nat) → BitVec w → BitVec w)) : NextInv (csrAccess rd a write s) := by
  unfold Machine.csrAccess
  dsimp only
  split
  · exact nextInv_fault _
  · split
    · exact h.retireX rfl ..
    · split
      · rename_i hlegal
        exact (h.csrPut hlegal (BitVec.isLt _)).retireX (by rw [State.csrPut_cfg]) ..
      · exact nextInv_fault _

/-! ## The loop of the prefixed instructions -/

/-- A state of the run of a prefixed instruction: the invariant holds, under the parameters `c`. -/
structure InvAt (c : Config) (u : State) : Prop where
  inv : u.Inv
  cfg : u.cfg = c

/-- A property that every commit keeps whose check has passed holds before every index that the loop reaches. -/
theorem stateBefore_keeps_of_checked {P : State → Prop} {en : Nat → Bool} {op : SubOp} {lo : Nat} {s : State}
    (h0 : P s) (h : ∀ u i, P u → op.check u i = none → P (op.commit u i)) {k : Nat}
    (hchecked : ∀ j < k, en (lo + j) = true → op.check (stateBefore en op lo s j) (lo + j) = none) :
    P (stateBefore en op lo s k) := by
  induction k with
  | zero => exact h0
  | succ k ih =>
    have hk := ih fun j hj => hchecked j (Nat.lt_succ_of_lt hj)
    rw [stateBefore]
    split
    · rename_i hen
      exact h _ _ hk (hchecked k (Nat.lt_succ_self k) hen)
    · exact hk

/-- The bookkeeping on Vstart at the loop's end. -/
theorem InvAt.setVstart_if {c : Config} {u : State} (h : InvAt c u) (isvec : Bool) {n : Nat}
    (hn : isvec = true → n < c.xbits) : (if isvec then u.setVstart n else u).Inv := by
  cases isvec
  · exact h.inv
  · exact h.inv.setVstart (h.cfg ▸ hn rfl)

/-- A prefixed instruction keeps the invariant where the commits of checked indices do: the loop commits no other, and
an index it stops at lies below VL. -/
theorem State.Inv.execPrefixed {s : State} (h : s.Inv) {op : SubOp}
    (hop : ∀ u i, InvAt s.cfg u → op.check u i = none → InvAt s.cfg (op.commit u i)) (isvec : Bool) (p : Pred) :
    NextInv (execPrefixed isvec p op s) := by
  rw [execPrefixed_eq]
  rcases subLoop_cases (enabled p s) op (indexCount isvec s) (firstIndex isvec s) s with
    ⟨hrun, hchecked⟩ | ⟨k, st, hk, -, hchecked, -, hrun⟩ <;>
    have hbefore := stateBefore_keeps_of_checked ⟨h, rfl⟩ hop hchecked <;> rw [hrun]
  · exact nextInv_next ((hbefore.setVstart_if isvec fun _ => xbits_pos s.cfg).advance rfl)
  · cases st with
    | modelFault r => exact nextInv_fault r
    | exception e info =>
      refine (hbefore.setVstart_if isvec fun hvec => ?_).raise e info
      subst hvec
      have hvl := h.vl
      change k < s.vl - s.vstart at hk
      change s.vstart + k < s.cfg.xbits
      omega

/-! ## The sub-vector operations -/

theorem putEach_keeps {P : State → Prop} {put : State → Nat → State} {n j : Nat} {s : State} (h0 : P s)
    (h : ∀ u q, j ≤ q → q < j + n → P u → P (put u q)) : P (putEach put n j s) := by
  induction n generalizing j s with
  | zero => exact h0
  | succ n ih => exact ih (h s j (le_refl j) (by omega) h0) fun u q hq hlt => h u q (by omega) (by omega)

/-- The writes of a sub-vector whose destination has no overrun (rules R28, R29b). -/
theorem InvAt.putEach_put {c : Config} {u s : State} (h : InvAt c u) (hs : s.cfg = c) {dst : Opd} {w n i : Nat}
    (hdst : destStop dst w s n i = none) (f : Nat → BitVec w) :
    InvAt c (putEach (fun t j => dst.put t w n i j (f j)) n 0 u) := by
  refine putEach_keeps h fun t j _ hj ht => ⟨ht.inv.elemPut ?_ (f j), (State.elemPut_cfg ..).trans ht.cfg⟩
  have hnone := firstStop_none.1 hdst j (by omega)
  rw [Nat.zero_add, Option.map_eq_none_iff, Opd.overrun_none] at hnone
  have hcfg : t.cfg = s.cfg := ht.cfg.trans hs.symm
  rwa [State.elemByte_congr hcfg, State.rb_congr hcfg]

theorem InvAt.commit_elementwise {c : Config} {u : State} {n i w : Nat} {dst : Opd} {srcs : List SizedOpd}
    {f : State → Nat → Nat → Fp.Res w} (h : InvAt c u) (hcheck : (elementwise n dst w srcs f).check u i = none) :
    InvAt c ((elementwise n dst w srcs f).commit u i) := by
  have hput := h.putEach_put h.cfg (Stop.orElse_none.1 hcheck).2 (fun j => (f u i j).1)
  exact ⟨hput.inv.orFlags _, hput.cfg⟩

theorem InvAt.commit_loadOp {c : Config} {u s : State} {dst : Opd} {w i : Nat} {o : MemOps} (h : InvAt c u)
    (hcheck : (loadOp dst w o s).check u i = none) : InvAt c ((loadOp dst w o s).commit u i) :=
  h.putEach_put h.cfg (Stop.orElse_none.1 hcheck).2 _

theorem InvAt.commit_storeOp {c : Config} {u : State} (h : InvAt c u) (src : Opd) (w : Nat) (o : MemOps) (s : State)
    (i : Nat) : InvAt c ((storeOp src w o s).commit u i) :=
  putEach_keeps h fun _ _ _ _ ht => ⟨ht.inv.memPut .., ht.cfg⟩

theorem State.Inv.svLoad {s : State} (h : s.Inv) (file : RegFile) (w : Nat) (o : MemOps) :
    NextInv (svLoad file w o s) :=
  h.execPrefixed (fun _ _ hu hcheck => hu.commit_loadOp hcheck) ..

theorem State.Inv.svStore {s : State} (h : s.Inv) (file : RegFile) (w : Nat) (o : MemOps) :
    NextInv (svStore file w o s) :=
  h.execPrefixed (fun _ i hu _ => hu.commit_storeOp _ w o s i) ..

/-- Every prefixed computation: its exception or its element-wise run. -/
theorem State.Inv.doesShape {s : State} (h : s.Inv) {o : Out} {i : Instr} {sh : Shape} (hd : DoesShape o s i sh) :
    NextInv o := by
  obtain ⟨hillegal, hlegal⟩ := hd
  cases hl : sh.legal with
  | false => exact ⟨fun t ht => h.traps ((hillegal hl).traps_of_next ht)⟩
  | true =>
    obtain ⟨dst, w, srcs, f, -, rfl⟩ := hlegal hl
    exact h.execPrefixed (fun _ _ hu hcheck => hu.commit_elementwise hcheck) ..

/-! ## Every instruction, every step -/

theorem State.Inv.execJal {s : State} (h : s.Inv) (rd : BitVec 5) (imm : BitVec 20) : NextInv (execJal rd imm s) :=
  nextInv_next ((h.putX rfl rd _).goto (by rw [State.putX_cfg]) (State.pcAt_add_even h (offset_even _ imm)))

theorem State.Inv.execJalr {s : State} (h : s.Inv) (rd rs1 : BitVec 5) (imm : BitVec 12) :
    NextInv (execJalr rd rs1 imm s) := by
  refine nextInv_next ((h.putX rfl rd _).goto (by rw [State.putX_cfg]) ?_)
  rw [toNat_even_iff]
  simp [xbits_pos s.cfg]

theorem State.Inv.exec {s : State} (h : s.Inv) (i : Instr) : NextInv (exec i s) := by
  cases hs : i.shape s with
  | some sh => exact h.doesShape (exec_of_shape hs)
  | none =>
    cases i with
    | svLb | svLh | svLw | svLbu | svLhu => exact h.svLoad ..
    | svLd | svLwu | svFlh | svFlw | svFld | svFlq => exact h.legally (h.svLoad ..) ..
    | svSb | svSh | svSw => exact h.svStore ..
    | svSd | svFsh | svFsw | svFsd | svFsq => exact h.legally (h.svStore ..) ..
    | setvl => exact h.execSetvl ..
    | lui | auipc | addi | slti | sltiu | xori | ori | andi | add | sub | sll | slt | sltu | xor | srl | sra | or
    | and =>
      exact h.retireX rfl ..
    | slli | srli | srai | addiw | slliw | srliw | sraiw | addw | subw | sllw | srlw | sraw | mul | mulh | mulhsu
    | mulhu | div | divu | rem | remu | mulw | divw | divuw | remw | remuw =>
      exact h.legally (h.retireX rfl ..) ..
    | lb | lh | lw | lbu | lhu => exact h.baseLoad (fun _ => h.putX rfl ..) ..
    | ld | lwu => exact h.legally (h.baseLoad (fun _ => h.putX rfl ..) ..) ..
    | flh | flw | fld | flq => exact h.legally (h.baseLoad (fun _ => h.putF ..) ..) ..
    | sb | sh | sw => exact h.baseStore ..
    | sd | fsh | fsw | fsd | fsq => exact h.legally (h.baseStore ..) ..
    | faddFmt | fsubFmt | fmulFmt | fdivFmt | fsqrtFmt | fcvtFmtW | fcvtFmtWu | fcvtFmtL | fcvtFmtLu | fcvtFmtFmt
    | fmaddFmt | fmsubFmt | fnmsubFmt | fnmaddFmt =>
      exact h.legally (h.rounded (fun _ => h.retireF ..) ..) ..
    | fcvtWFmt | fcvtWuFmt | fcvtLFmt | fcvtLuFmt => exact h.legally (h.rounded (fun _ => h.retireXFlags ..) ..) ..
    | fsgnjFmt | fsgnjnFmt | fsgnjxFmt | fminFmt | fmaxFmt | fmvFmtX => exact h.legally (h.retireF ..) ..
    | feqFmt | fltFmt | fleFmt | fmvXFmt | fclassFmt => exact h.legally (h.retireXFlags ..) ..
    | jal => exact h.execJal ..
    | jalr => exact h.execJalr ..
    | beq | bne | blt | bge | bltu | bgeu => exact h.branchIf ..
    | fence | fenceI => exact nextInv_next (h.advance rfl)
    | ecall | ebreak => exact h.raise ..
    | mret => exact h.legally (nextInv_next h.trapReturn) ..
    | csrrw rd rs1 csr => exact h.csrAccess rd csr (some fun w _ => s.getX w rs1.toNat)
    | csrrwi rd uimm csr => exact h.csrAccess rd csr (some fun w _ => BitVec.ofNat w uimm.toNat)
    | csrrs | csrrc | csrrsi | csrrci => exact h.csrAccess ..
    | _ => exact nomatch hs

/-- Everything a step can do: raise what the fetch found, stop, run an instruction, or treat a word that is none. -/
theorem step_cases (s : State) :
    (∃ e info, step s = raise e info s) ∨ (∃ r, step s = .fault r) ∨ (∃ r, step s = .refused r) ∨
      ∃ i, step s = exec i s := by
  unfold step notAnInstruction
  split
  · exact .inl ⟨_, _, rfl⟩
  · exact .inr (.inl ⟨_, rfl⟩)
  · split
    · exact .inr (.inr (.inr ⟨_, rfl⟩))
    · split
      · exact .inr (.inr (.inl ⟨_, rfl⟩))
      · exact .inl ⟨_, _, rfl⟩

/-- Settles O6: every instruction and every exception keeps the invariant, and a step is one of them or a stop. -/
theorem stepKeepsInvariant : Obligations.StepKeepsInvariant := by
  intro s t h hstep
  rcases step_cases s with ⟨e, info, hs⟩ | ⟨r, hs⟩ | ⟨r, hs⟩ | ⟨i, hs⟩ <;> rw [hs] at hstep
  · exact (h.raise e info).next t hstep
  · cases hstep
  · cases hstep
  · exact (h.exec i).next t hstep

end Sys2Proof.Machine
end

section
/-! PROOFS. Operands past register 127 (rule R29). A check of a sub-vector whose accesses pass can find nothing but an
overrun; so the first index that stops a prefixed instruction, at or below one that overruns, stops it with
RegisterOverrun. -/

namespace Sys2Proof.Machine

/-! ## Checks that find overruns alone -/

/-- The check finds nothing, or an operand past register 127. -/
structure OverrunOnly (o : Option Stop) : Prop where
  overrun : ∀ st, o = some st → ∃ file r, st = .modelFault (.registerOverrun file r)

theorem overrunOnly_none : OverrunOnly none := ⟨fun _ h => by cases h⟩

theorem OverrunOnly.orElse {a b : Option Stop} (ha : OverrunOnly a) (hb : OverrunOnly b) :
    OverrunOnly (Stop.orElse a b) := by
  cases a
  · exact hb
  · exact ha

/-- The first of two checks hides the second where it finds something. -/
theorem OverrunOnly.orElse_of_ne_none {a : Option Stop} (ha : OverrunOnly a) (hne : a ≠ none) (b : Option Stop) :
    OverrunOnly (Stop.orElse a b) := by
  cases a
  · exact absurd rfl hne
  · exact ha

theorem OverrunOnly.firstStop {f : Nat → Option Stop} (n j : Nat) (h : ∀ m, j ≤ m → m < j + n → OverrunOnly (f m)) :
    OverrunOnly (firstStop f n j) := by
  induction n generalizing j with
  | zero => exact overrunOnly_none
  | succ n ih =>
    rw [Machine.firstStop]
    split
    · rename_i st hst
      exact hst ▸ h j (le_refl j) (by omega)
    · exact ih (j + 1) fun m hm hlt => h m (by omega) (by omega)

theorem Opd.overrunOnly (o : Opd) (s : State) (w n i j : Nat) :
    OverrunOnly ((o.overrun s w n i j).map .modelFault) := by
  unfold Opd.overrun
  split
  · exact overrunOnly_none
  · exact ⟨fun st h => ⟨_, _, (Option.some.inj h).symm⟩⟩

theorem destStop_overrunOnly (dst : Opd) (w : Nat) (s : State) (n i : Nat) : OverrunOnly (destStop dst w s n i) :=
  .firstStop _ _ fun _ _ _ => dst.overrunOnly ..

theorem sourceStop_overrunOnly (srcs : List SizedOpd) (s : State) (n i j : Nat) :
    OverrunOnly (sourceStop srcs s n i j) := by
  induction srcs with
  | nil => exact overrunOnly_none
  | cons x rest ih => exact (x.1.overrunOnly ..).orElse ih

/-- The check finds an operand past register 127, and nothing else. -/
def FindsOverrun (o : Option Stop) : Prop := OverrunOnly o ∧ o ≠ none

/-- A prefixed instruction that overruns at index number `k`, the checks below it finding overruns alone, is
RegisterOverrun: it stops at `k` or below. -/
theorem execPrefixed_overruns {isvec : Bool} {p : Pred} {op : SubOp} {s : State} {k : Nat}
    (hk : k < indexCount isvec s) (he : enabled p s (firstIndex isvec s + k) = true)
    (hat : FindsOverrun (op.check (stateBefore (enabled p s) op (firstIndex isvec s) s k) (firstIndex isvec s + k)))
    (hlower : ∀ q < k, enabled p s (firstIndex isvec s + q) = true →
      OverrunOnly (op.check (stateBefore (enabled p s) op (firstIndex isvec s) s q) (firstIndex isvec s + q))) :
    ∃ file r, execPrefixed isvec p op s = .fault (.registerOverrun file r) := by
  obtain ⟨hatonly, hatne⟩ := hat
  rw [execPrefixed_eq]
  rcases subLoop_cases (enabled p s) op (indexCount isvec s) (firstIndex isvec s) s with
    ⟨-, hnone⟩ | ⟨m, st, -, hem, hnone, hst, hrun⟩
  · exact absurd (hnone k hk he) hatne
  · have honly : OverrunOnly (op.check (stateBefore (enabled p s) op (firstIndex isvec s) s m)
        (firstIndex isvec s + m)) := by
      rcases Nat.lt_trichotomy m k with hlt | rfl | hgt
      · exact hlower m hlt hem
      · exact hatonly
      · exact absurd (hnone k hgt he) hatne
    obtain ⟨file, r, rfl⟩ := honly.overrun st hst
    exact ⟨file, r, by rw [hrun]; rfl⟩

/-! ## Prefixed computations -/

theorem elementwise_check_overrunOnly (n : Nat) (dst : Opd) (w : Nat) (srcs : List SizedOpd)
    (f : State → Nat → Nat → Fp.Res w) (u : State) (i : Nat) :
    OverrunOnly ((elementwise n dst w srcs f).check u i) :=
  .orElse (.firstStop _ _ fun _ _ _ => sourceStop_overrunOnly ..) (destStop_overrunOnly ..)

/-- Where the check of the sources passes, each of them fits. -/
theorem sourceStop_none_of_mem {srcs : List SizedOpd} {s : State} {n i j : Nat} (h : sourceStop srcs s n i j = none)
    {x : SizedOpd} (hx : x ∈ srcs) : x.1.overrun s x.2 n i j = none := by
  induction srcs with
  | nil => cases hx
  | cons y rest ih =>
    obtain ⟨hy, hrest⟩ := Stop.orElse_none.1 h
    rcases List.mem_cons.1 hx with rfl | hx
    · exact Option.map_eq_none_iff.1 hy
    · exact ih hrest hx

/-- Where the check of an element-wise operation passes, every operand fits. -/
theorem overrun_none_of_check {n w : Nat} {dst : Opd} {srcs : List SizedOpd} {f : State → Nat → Nat → Fp.Res w}
    {u : State} {i : Nat} (h : (elementwise n dst w srcs f).check u i = none) {x : SizedOpd}
    (hx : x ∈ (dst, w) :: srcs) {j : Nat} (hj : j < n) : x.1.overrun u x.2 n i j = none := by
  obtain ⟨hsrcs, hdst⟩ := Stop.orElse_none.1 h
  have hsrc := firstStop_none.1 hsrcs j hj
  have hd := firstStop_none.1 hdst j hj
  rw [Nat.zero_add] at hsrc hd
  rcases List.mem_cons.1 hx with rfl | hx
  · exact Option.map_eq_none_iff.1 hd
  · exact sourceStop_none_of_mem hsrc hx

theorem elementwise_before_cfg (en : Nat → Bool) (n : Nat) (dst : Opd) (w : Nat) (srcs : List SizedOpd)
    (f : State → Nat → Nat → Fp.Res w) (lo : Nat) (s : State) (k : Nat) :
    (stateBefore en (elementwise n dst w srcs f) lo s k).cfg = s.cfg :=
  stateBefore_keeps (P := fun u => u.cfg = s.cfg) en _ lo s rfl
    (fun u i hu => (commitElems_written dst w n i (f u i) u).keeps.1.trans hu) k

theorem RunsShape.overruns {out : Out} {s : State} {h : Shape} (hr : RunsShape out s h) (hfits : ¬h.Fits s) :
    ∃ file r, out = .fault (.registerOverrun file r) := by
  obtain ⟨dst, w, srcs, f, hopds, rfl⟩ := hr
  unfold Shape.Fits OpdFits at hfits
  push Not at hfits
  obtain ⟨x, hx, k, hk, he, j, hj, hover⟩ := hfits
  refine execPrefixed_overruns hk he ⟨elementwise_check_overrunOnly .., fun hnone => ?_⟩
    fun q _ _ => elementwise_check_overrunOnly ..
  have hcfg := elementwise_before_cfg (enabled h.pred s) h.svlen dst w srcs f (firstIndex h.isVec s) s k
  have hfit := overrun_none_of_check hnone (hopds ▸ hx) hj
  rw [Opd.overrun_none, State.elemByte_congr hcfg, State.rb_congr hcfg] at hfit
  omega

/-! ## Prefixed loads and stores -/

theorem svlen_count_pos (l : SvLen) : 0 < l.count := by cases l <;> decide

/-- What the check of an element's address finds in the state `u`: an overrun of the address vector (rules R29b,
R162). -/
def addrStop (o : MemOps) (s u : State) (i : Nat) : Option Stop :=
  if addrIsV s.cfg o then ((addrOpd o).overrun u u.cfg.xbits 1 i 0).map .modelFault else none

theorem loadStop_eq (o : MemOps) (s u : State) (w n i j : Nat) :
    ∃ a, a = (effAddr u.cfg.xbits o s u n (w / 8) i j).toNat ∧ loadStop o s u w n i j =
      Stop.orElse (addrStop o s u i) ((u.checkAccess a (w / 8) .load).map (fun e => .exception e a)) :=
  ⟨_, rfl, rfl⟩

theorem storeStop_eq (src : Opd) (o : MemOps) (s u : State) (w n i j : Nat) :
    ∃ a, a = (effAddr u.cfg.xbits o s u n (w / 8) i j).toNat ∧ storeStop src o s u w n i j =
      Stop.orElse (addrStop o s u i) (Stop.orElse ((src.overrun u w n i j).map .modelFault)
        ((u.checkAccess a (w / 8) .store).map (fun e => .exception e a))) :=
  ⟨_, rfl, rfl⟩

theorem addrStop_overrunOnly (o : MemOps) (s u : State) (i : Nat) : OverrunOnly (addrStop o s u i) := by
  unfold addrStop
  split
  · exact (addrOpd o).overrunOnly ..
  · exact overrunOnly_none

theorem addrStop_ne_none {o : MemOps} {s u : State} {i : Nat} (h : ¬AddrFits o s i) (hc : u.cfg = s.cfg) :
    addrStop o s u i ≠ none := by
  unfold AddrFits at h
  push Not at h
  obtain ⟨hv, hover⟩ := h
  rw [addrStop, if_pos hv, ne_eq, Option.map_eq_none_iff, Opd.overrun_none, State.elemByte_congr hc,
    State.rb_congr hc, hc, show (addrOpd o).index 1 i 0 = i by simp [addrOpd, xOpd, Opd.index]]
  exact not_le.2 hover

/-- A load whose address vector does not fit at an index stops there, with an overrun. -/
theorem loadOp_check_of_not_fits {o : MemOps} {s u : State} {i : Nat} (h : ¬AddrFits o s i) (hc : u.cfg = s.cfg)
    (dst : Opd) (w : Nat) :
    FindsOverrun ((loadOp dst w o s).check u i) := by
  have hne := addrStop_ne_none h hc
  refine ⟨.orElse (.firstStop _ _ fun j _ _ => ?_) (destStop_overrunOnly ..), fun hnone => ?_⟩
  · exact (addrStop_overrunOnly o s u i).orElse_of_ne_none hne _
  · have h0 := firstStop_none.1 (Stop.orElse_none.1 hnone).1 0 (svlen_count_pos _)
    exact hne (Stop.orElse_none.1 h0).1

/-- A store whose address vector does not fit at an index stops there, with an overrun. -/
theorem storeOp_check_of_not_fits {o : MemOps} {s u : State} {i : Nat} (h : ¬AddrFits o s i) (hc : u.cfg = s.cfg)
    (src : Opd) (w : Nat) :
    FindsOverrun ((storeOp src w o s).check u i) := by
  have hne := addrStop_ne_none h hc
  have hstop : firstStop (storeStop src o s u w o.vtp.svlen.count i) o.vtp.svlen.count 0 ≠ none := fun hnone =>
    hne (Stop.orElse_none.1 (firstStop_none.1 hnone 0 (svlen_count_pos _))).1
  refine ⟨OverrunOnly.orElse_of_ne_none (.firstStop _ _ fun j _ _ => ?_) hstop _,
    fun hnone => hstop (Stop.orElse_none.1 hnone).1⟩
  exact (addrStop_overrunOnly o s u i).orElse_of_ne_none hne _

section
variable {file : RegFile} {w : Nat} {o : MemOps} {s : State} {k : Nat}

/-- Where the accesses of an index of a load pass, its check can find overruns alone. -/
theorem loadOp_check_of_ready (he : enabled o.vtp.pred s (firstIndex (memIsVec s) s + k) = true)
    (hr : LoadReady file w o s k) :
    OverrunOnly
      ((loadOp (dataOpd file o s) w o s).check (loadBefore file w o s k) (firstIndex (memIsVec s) s + k)) := by
  obtain ⟨-, haccess⟩ := hr he
  have hc := loadBefore_cfg file w o s k
  refine .orElse (.firstStop _ _ fun j _ hj => ?_) (destStop_overrunOnly ..)
  obtain ⟨a, ha, hstop⟩ := loadStop_eq o s (loadBefore file w o s k) w o.vtp.svlen.count
    (firstIndex (memIsVec s) s + k) j
  have hpass := haccess j (by omega)
  rw [elemAddr, ← hc, ← ha, ← State.checkAccess_congr _ _ hc] at hpass
  rw [hstop, hpass]
  exact (addrStop_overrunOnly ..).orElse overrunOnly_none

/-- Where the accesses of an index of a store pass and miss the text, its check can find overruns alone. -/
theorem storeOp_check_of_ready (he : enabled o.vtp.pred s (firstIndex (memIsVec s) s + k) = true)
    (hr : StoreReady w o s k) (src : Opd) {u : State} (hu : OnlyMemOf s u) :
    OverrunOnly ((storeOp src w o s).check u (firstIndex (memIsVec s) s + k)) := by
  obtain ⟨-, haccess⟩ := hr he
  have hc : u.cfg = s.cfg := by rw [hu]
  have hx : u.xregs = s.xregs := by rw [hu]
  refine .orElse (.firstStop _ _ fun j _ hj => ?_) (.firstStop _ _ fun j _ hj => ?_)
  all_goals
    obtain ⟨hpass, htext⟩ := haccess j (by omega)
    rw [elemAddr, ← hc, ← effAddr_congr _ o hc hx] at hpass htext
  · obtain ⟨a, ha, hstop⟩ := storeStop_eq src o s u w o.vtp.svlen.count (firstIndex (memIsVec s) s + k) j
    rw [← ha, ← State.checkAccess_congr _ _ hc] at hpass
    rw [hstop, hpass]
    exact (addrStop_overrunOnly ..).orElse ((src.overrunOnly ..).orElse overrunOnly_none)
  · rw [← State.hitsText_congr _ _ hc] at htext
    rw [textStop, if_neg (by rw [htext]; decide)]
    exact overrunOnly_none

/-- An overrun of the data operand is one in every state of the run. -/
theorem DataOverruns.overrun_ne_none (h : DataOverruns file w o s k) {u : State} (hc : u.cfg = s.cfg) :
    ∃ j < o.vtp.svlen.count, ((dataOpd file o s).overrun u w o.vtp.svlen.count (firstIndex (memIsVec s) s + k)
      (0 + j)).map Stop.modelFault ≠ none := by
  obtain ⟨j, hj, hover⟩ := h
  refine ⟨j, hj, ?_⟩
  rw [Nat.zero_add, ne_eq, Option.map_eq_none_iff, Opd.overrun_none, State.elemByte_congr hc, State.rb_congr hc]
  exact not_le.2 hover

theorem loadOp_check_of_dataOverruns (h : DataOverruns file w o s k) {u : State} (hc : u.cfg = s.cfg) :
    (loadOp (dataOpd file o s) w o s).check u (firstIndex (memIsVec s) s + k) ≠ none := by
  obtain ⟨j, hj, hover⟩ := h.overrun_ne_none hc
  exact fun hnone => hover (firstStop_none.1 (Stop.orElse_none.1 hnone).2 j hj)

theorem storeOp_check_of_dataOverruns (h : DataOverruns file w o s k) {u : State} (hc : u.cfg = s.cfg) :
    (storeOp (dataOpd file o s) w o s).check u (firstIndex (memIsVec s) s + k) ≠ none := by
  obtain ⟨j, hj, hover⟩ := h.overrun_ne_none hc
  intro hnone
  have hstop := firstStop_none.1 (Stop.orElse_none.1 hnone).1 j hj
  exact hover (Stop.orElse_none.1 (Stop.orElse_none.1 hstop).2).1

/-- A prefixed load that overruns at an index, the lower ones passing their accesses, is RegisterOverrun. -/
theorem svLoad_overruns (hk : k < indexCount (memIsVec s) s)
    (he : enabled o.vtp.pred s (firstIndex (memIsVec s) s + k) = true) (hlower : ∀ q < k, LoadReady file w o s q)
    (hover : ¬AddrFits o s (firstIndex (memIsVec s) s + k) ∨ (LoadReady file w o s k ∧ DataOverruns file w o s k)) :
    ∃ file' r, svLoad file w o s = .fault (.registerOverrun file' r) := by
  refine execPrefixed_overruns hk he ?_ fun q hq heq => loadOp_check_of_ready heq (hlower q hq)
  rcases hover with haddr | ⟨hr, hdata⟩
  · exact loadOp_check_of_not_fits haddr (loadBefore_cfg ..) ..
  · exact ⟨loadOp_check_of_ready he hr, loadOp_check_of_dataOverruns hdata (loadBefore_cfg ..)⟩

/-- A prefixed store that overruns at an index, the lower ones passing their accesses, is RegisterOverrun. -/
theorem svStore_overruns (hk : k < indexCount (memIsVec s) s)
    (he : enabled o.vtp.pred s (firstIndex (memIsVec s) s + k) = true) (hlower : ∀ q < k, StoreReady w o s q)
    (hover : ¬AddrFits o s (firstIndex (memIsVec s) s + k) ∨ (StoreReady w o s k ∧ DataOverruns file w o s k)) :
    ∃ file' r, svStore file w o s = .fault (.registerOverrun file' r) := by
  have hmem := storeBefore_onlyMem (dataOpd file o s) w o (enabled o.vtp.pred s) (firstIndex (memIsVec s) s) s
  refine execPrefixed_overruns hk he ?_ fun q hq heq => storeOp_check_of_ready heq (hlower q hq) _ (hmem q)
  have hc := congrArg State.cfg (hmem k)
  rcases hover with haddr | ⟨hr, hdata⟩
  · exact storeOp_check_of_not_fits haddr hc ..
  · exact ⟨storeOp_check_of_ready he hr _ (hmem k), storeOp_check_of_dataOverruns hdata hc⟩

end

/-- A prefixed load that the machine has runs the generic load. -/
theorem exec_svLoadForm {f : MemForm} (hf : f ∈ svLoadForms) (o : MemOps) {s : State} (hhere : f.Here s) :
    exec (f.ctor o) s = svLoad f.file f.w o s := by
  obtain ⟨hx, hfp⟩ := hhere
  simp only [svLoadForms, List.mem_cons, List.not_mem_nil, or_false] at hf
  rcases hf with rfl | rfl | rfl | rfl | rfl | rfl | rfl | rfl | rfl | rfl | rfl <;>
    simp [hx, hfp, exec, execSvLb, execSvLh, execSvLw, execSvLd, execSvLbu, execSvLhu, execSvLwu, execSvFlh, execSvFlw,
      execSvFld, execSvFlq, legally]

/-- A prefixed store that the machine has runs the generic store. -/
theorem exec_svStoreForm {f : MemForm} (hf : f ∈ svStoreForms) (o : MemOps) {s : State} (hhere : f.Here s) :
    exec (f.ctor o) s = svStore f.file f.w o s := by
  obtain ⟨hx, hfp⟩ := hhere
  simp only [svStoreForms, List.mem_cons, List.not_mem_nil, or_false] at hf
  rcases hf with rfl | rfl | rfl | rfl | rfl | rfl | rfl | rfl <;>
    simp [hx, hfp, exec, execSvSb, execSvSh, execSvSw, execSvSd, execSvFsh, execSvFsw, execSvFsd, execSvFsq, legally]

/-- Settles O55: the first index that stops finds an overrun, in a computation by its shape, in a load or store because
the accesses up to it pass. -/
theorem registerOverrun : Obligations.RegisterOverrun := by
  refine ⟨fun i s h hs hlegal hfits => ((exec_of_shape hs).2 hlegal).overruns hfits, fun o s k hk he => ⟨?_, ?_⟩⟩
  · intro f hf hhere hlower hover
    rw [exec_svLoadForm hf o hhere]
    exact svLoad_overruns hk he hlower hover
  · intro f hf hhere hlower hover
    rw [exec_svStoreForm hf o hhere]
    exact svStore_overruns hk he hlower hover

end Sys2Proof.Machine
end

section
/-! PROOFS. The fetch (rules R36, R50, R54, R58, R66): each branch said once in the terms of the bytes at the pc, and a
step over bytes that decode. -/

namespace Sys2Proof.Machine

/-! ## Byte order -/

theorem leNat_append_singleton (l : List Byte) (b : Byte) :
    leNat (l ++ [b]) = leNat l + b.toNat * 2 ^ (8 * l.length) := by
  induction l with
  | nil => simp [leNat]
  | cons a l ih =>
    rw [List.cons_append, leNat, leNat, ih, List.length_cons, Nat.mul_succ, Nat.pow_add]
    ring

/-- The bytes of memory that a list holds have its value (rules R50, R51). -/
theorem readLe_eq_leNat (m : ByteMap) (num : Nat → Nat) (l : List Byte)
    (h : ∀ (k : Nat) (hk : k < l.length), ByteMap.read m (num k) = l[k]) : ByteMap.readLe m num l.length = leNat l := by
  induction l using List.reverseRecOn with
  | nil => rfl
  | append_singleton l b ih =>
    rw [leNat_append_singleton, List.length_append, List.length_singleton, ByteMap.readLe,
      ih fun k hk => by rw [h k (by simp; omega), List.getElem_append_left hk], h l.length (by simp)]
    simp

/-! ## The branches of the fetch -/

/-- The first parcel: its lower-addressed byte is the least significant (rules R50, R66). -/
theorem parcelAt_zero (s : State) : parcelAt s 0 =
    (s.byteAt (s.pc.toNat % 2 ^ s.cfg.xbits)).toNat +
      256 * (s.byteAt ((s.pc.toNat + 1) % 2 ^ s.cfg.xbits)).toNat := by
  simp [parcelAt, ByteMap.readLe, State.wrapAddr, State.span, State.byteAt, Nat.mul_comm]

theorem instrLen_eq_none {p : Nat} (h : p % 64 = 63) : instrLen p = none := by
  unfold instrLen
  rw [if_neg (by omega), if_neg (by omega), if_neg (by omega)]

/-- The length a parcel announces (rule R66). -/
theorem instrLen_eq_some_iff {p len : Nat} : instrLen p = some len ↔
    (len = 2 ∧ p % 4 ≠ 3) ∨ (len = 4 ∧ p % 4 = 3 ∧ p / 4 % 8 ≠ 7) ∨ (len = 6 ∧ p % 64 = 31) := by
  unfold instrLen
  split
  · simp; omega
  · split
    · simp; omega
    · split <;> simp <;> omega

theorem fetch_of_odd {s : State} (h : s.pc.toNat % 2 = 1) :
    fetch s = .exception .instructionAddressMisaligned s.pc.toNat := by
  rw [fetch, if_pos h]

section
variable {s : State} (heven : s.pc.toNat % 2 = 0)
include heven

theorem fetch_of_refused (h : s.admits s.pc.toNat 2 .fetch = false) :
    fetch s = .exception .instructionAccessFault s.pc.toNat := by
  rw [fetch, if_neg (by omega), if_pos (by rw [fetchable, h]; rfl)]

variable (hfirst : s.admits s.pc.toNat 2 .fetch = true)
include hfirst

theorem fetch_of_tooLong (hlen : instrLen (parcelAt s 0) = none) :
    fetch s = .exception .illegalInstruction (parcelAt s 0) := by
  simp [fetch, heven, fetchable, hfirst, hlen]

variable {len : Nat} (hlen : instrLen (parcelAt s 0) = some len)
include hlen

theorem fetch_of_wraps (hwrap : 2 ^ s.cfg.xbits < s.pc.toNat + len) : fetch s = .wraps := by
  simp [fetch, heven, fetchable, hfirst, hlen, State.span, hwrap]

theorem fetch_of_laterRefused (hwrap : s.pc.toNat + len ≤ 2 ^ s.cfg.xbits)
    (hrest : s.admits s.pc.toNat len .fetch = false) :
    fetch s = .exception .instructionAccessFault s.pc.toNat := by
  simp [fetch, heven, fetchable, hfirst, hlen, State.span, not_lt.2 hwrap, hrest]

theorem fetch_word (hwrap : s.pc.toNat + len ≤ 2 ^ s.cfg.xbits) (hrest : s.admits s.pc.toNat len .fetch = true) :
    fetch s = .word len (ByteMap.readLe s.mem (s.wrapAddr s.pc.toNat) len) := by
  simp [fetch, heven, fetchable, hfirst, hlen, State.span, not_lt.2 hwrap, hrest]

end

/-! ## Steps whose fetch fails -/

theorem step_of_exception {s : State} {e : Exc} {info : Nat} (h : fetch s = .exception e info) :
    Raises (step s) s e info := by
  unfold step
  rw [h]
  exact raise_raises ..

theorem step_of_wraps {s : State} (h : fetch s = .wraps) : step s = .fault (.fetchWrap s.pc) := by
  unfold step
  rw [h]

/-- Settles O9, by the branches of the fetch in their order. -/
theorem fetchExceptions : Obligations.FetchExceptions := by
  intro s p hp
  rw [← parcelAt_zero] at hp
  subst hp
  refine ⟨fun hodd => step_of_exception (fetch_of_odd hodd),
    fun heven hrefused => step_of_exception (fetch_of_refused heven hrefused),
    fun heven hfirst => ⟨fun hlong => ?_, ?_⟩⟩
  · exact step_of_exception (fetch_of_tooLong heven hfirst (instrLen_eq_none hlong))
  · intro len hannounced
    have hlen := instrLen_eq_some_iff.2 hannounced
    exact ⟨fun hwrap => step_of_wraps (fetch_of_wraps heven hfirst hlen hwrap),
      fun hwrap hrest => step_of_exception (fetch_of_laterRefused heven hfirst hlen hwrap hrest)⟩

/-! ## Steps over bytes that decode -/

/-- Bytes that decode with no rest are the word of their announced length. -/
theorem decode_all {enc : SetvlEncoding} {bs : List Byte} {i : Instr} (h : decode enc bs = .ok (i, [])) :
    2 ≤ bs.length ∧ instrLen (leNat (bs.take 2)) = some bs.length ∧
      decodeWord enc bs.length (leNat bs) = .ok i := by
  unfold decode at h
  split at h
  · cases h
  · split at h
    · cases h
    · rename_i hshort _ n hlen
      split at h
      · cases h
      · rename_i hn
        split at h
        · rename_i i' hdec
          obtain ⟨rfl, hrest⟩ := Prod.mk.inj (Except.ok.inj h)
          obtain rfl : n = bs.length := le_antisymm (not_lt.1 hn) (List.drop_eq_nil_iff.1 hrest)
          rw [List.take_length] at hdec
          exact ⟨not_lt.1 hshort, hlen, hdec⟩
        · cases h

/-- What may be fetched whole may be fetched in part. -/
theorem State.admits_of_le {s : State} {a m n : Nat} {k : Access} (hmn : m ≤ n) (h : s.admits a n k = true) :
    s.admits a m k = true := by
  unfold State.admits at h ⊢
  rw [List.all_eq_true] at h ⊢
  exact fun j hj => h j (List.mem_range.2 (lt_of_lt_of_le (List.mem_range.1 hj) hmn))

/-- Settles O7: the word fetched is the value of the bytes, which decode. -/
theorem stepRunsDecoded : Obligations.StepRunsDecoded := by
  intro s bs i hdecode heven hwrap hadmits hbytes
  obtain ⟨htwo, hlen, hword⟩ := decode_all hdecode
  have hparcel : parcelAt s 0 = leNat (bs.take 2) := by
    have h := readLe_eq_leNat s.mem (s.wrapAddr s.pc.toNat) (bs.take 2) fun k hk => by
      rw [List.getElem_take]
      exact hbytes k (lt_of_lt_of_le hk (List.length_take_le' 2 bs))
    rwa [List.length_take_of_le htwo] at h
  have hvalue : ByteMap.readLe s.mem (s.wrapAddr s.pc.toNat) bs.length = leNat bs := readLe_eq_leNat _ _ _ hbytes
  have hfetch := fetch_word heven (State.admits_of_le htwo hadmits) (hparcel ▸ hlen) hwrap hadmits
  unfold step
  rw [hfetch, hvalue]
  dsimp only
  rw [hword]

end Sys2Proof.Machine
end

section
/-! PROOFS. The registers: element writes (rules R26 to R28), x0 (rule R21), the state after reset (rules R41, R390),
and the CSRs: accesses that have no meaning, addresses and values (rules R33, R368). -/

namespace Sys2Proof.Machine

/-! ## Elements -/

/-- Settles O12, by what one element write does to every register byte. -/
theorem elementWrite : Obligations.ElementWrite := by
  intro s f n k w v hw
  refine ⟨fun hx0 => ?_, fun g b houtside => ?_, fun b hb => ?_⟩
  · exact s.elemGet_elemPut_same f n k w v (by omega) hx0
  · rw [State.regByte_elemPut, if_neg]
    rintro ⟨hg, hlow, hhigh, -⟩
    have := houtside hg
    omega
  · exact State.regByte_below _ f (by rwa [State.elemPut_firstByte])

/-- Settles O11. -/
theorem xZero : Obligations.XZero := fun s => ⟨s.getX_zero, s.putX_zero⟩

/-! ## Reset -/

/-- Settles O4: every register file and memory list nothing, and every register is 0. -/
theorem resetInvariant : Obligations.ResetInvariant where
  cfg := ⟨rfl, rfl⟩
  mem := rfl
  memRange := by simp [State.reset]
  xregs := rfl
  xrange := by simp [State.reset]
  fregs := rfl
  frange := by simp [State.reset]
  pcEven := rfl
  pcRange := State.span_pos _
  vl := Nat.zero_le _
  vstart := xbits_pos _
  mepc := ⟨State.span_pos _, rfl⟩
  trapRange := ⟨State.span_pos _, State.span_pos _, State.span_pos _, State.span_pos _⟩

/-- Settles O5. -/
theorem resetValues : Obligations.ResetValues := ⟨rfl, rfl, rfl, State.getX_zero _⟩

/-! ## CSRs -/

theorem csrAccess_of_unmodelled {s : State} {a : BitVec 12} (h : csrAt s.cfg a = none) (rd : BitVec 5)
    (write : Option ((w : Nat) → BitVec w → BitVec w)) : csrAccess rd a write s = .fault (.unmodelledCsr a) := by
  simp [csrAccess, h]

/-- A write of an illegal value of VL or Vstart (rule R33). -/
theorem csrAccess_of_illegal {s : State} {a : BitVec 12} {c : Csr} (h : csrAt s.cfg a = some c) (rd : BitVec 5)
    (f : (w : Nat) → BitVec w → BitVec w) {old new : BitVec s.cfg.xbits} (hold : old = BitVec.ofNat _ (s.csrGet c))
    (hnew : f _ old = new)
    (hillegal : (c = .vl ∧ s.cfg.xbits < new.toNat) ∨ (c = .vstart ∧ s.cfg.xbits ≤ new.toNat)) :
    csrAccess rd a (some f) s = .fault (.illegalCsrValue c new.toNat) := by
  subst hold hnew
  rcases hillegal with ⟨rfl, hlt⟩ | ⟨rfl, hle⟩
  · simp [csrAccess, h, csrLegal, hlt]
  · simp [csrAccess, h, csrLegal, hle]

/-! The four read-modify-write forms write where their source field is not 0 (rules R370, R371, R373, R374). -/

section
variable {r : BitVec 5} (hr : r ≠ 0#5) (rd : BitVec 5) (a : BitVec 12) (s : State)
include hr

theorem exec_csrrs_of_ne : exec (.csrrs rd r a) s = csrAccess rd a (some fun w t => t ||| s.getX w r.toNat) s := by
  simp only [exec, execCsrrs]
  rw [if_neg hr]

theorem exec_csrrc_of_ne : exec (.csrrc rd r a) s = csrAccess rd a (some fun w t => t &&& ~~~(s.getX w r.toNat)) s := by
  simp only [exec, execCsrrc]
  rw [if_neg hr]

theorem exec_csrrsi_of_ne :
    exec (.csrrsi rd r a) s = csrAccess rd a (some fun w t => t ||| BitVec.ofNat w r.toNat) s := by
  simp only [exec, execCsrrsi]
  rw [if_neg hr]

theorem exec_csrrci_of_ne :
    exec (.csrrci rd r a) s = csrAccess rd a (some fun w t => t &&& ~~~(BitVec.ofNat w r.toNat)) s := by
  simp only [exec, execCsrrci]
  rw [if_neg hr]

end

/-- Settles O40: the six instructions are one CSR access, which stops before it writes. -/
theorem csrFaults : Obligations.CsrFaults := by
  intro rd r a s
  refine ⟨fun hnone i hi => ?_, fun c old new hcsr hold hillegal => ?_⟩
  · simp only [List.mem_cons, List.not_mem_nil, or_false] at hi
    rcases hi with rfl | rfl | rfl | rfl | rfl | rfl <;>
      simp only [exec, execCsrrw, execCsrrs, execCsrrc, execCsrrwi, execCsrrsi, execCsrrci,
        csrAccess_of_unmodelled hnone]
  · have hstop (f : (w : Nat) → BitVec w → BitVec w) (hnew : f _ old = new) :=
      csrAccess_of_illegal hcsr rd f hold hnew hillegal
    refine ⟨fun hnew => ?_, fun hnew hr => ?_, fun hnew hr => ?_, fun hnew hr => ?_, fun hnew hr => ?_⟩
    · exact hstop (fun w _ => s.getX w r.toNat) hnew.symm
    · exact (exec_csrrs_of_ne hr ..).trans (hstop _ hnew.symm)
    · exact (exec_csrrc_of_ne hr ..).trans (hstop _ hnew.symm)
    · exact (exec_csrrsi_of_ne hr ..).trans (hstop _ (by rw [hnew, BitVec.ofNat_toNat]))
    · exact (exec_csrrci_of_ne hr ..).trans (hstop _ (by rw [hnew, BitVec.ofNat_toNat]))

/-- The bits of `mstatus` (rule R390). -/
theorem State.csrGet_mstatus_testBit (s : State) (k : Nat) :
    (s.csrGet .mstatus).testBit k = (decide (k = 3) && s.mie || decide (k = 7) && s.mpie) := by
  have h8 : Nat.testBit 8 k = decide (3 = k) := Nat.testBit_two_pow (n := 3)
  have h128 : Nat.testBit 128 k = decide (7 = k) := Nat.testBit_two_pow (n := 7)
  have h136 : Nat.testBit 136 k = (decide (3 = k) || decide (7 = k)) := by
    rw [← h8, ← h128, ← Nat.testBit_or]
    rfl
  rw [State.csrGet]
  cases s.mie <;> cases s.mpie <;> simp [h8, h128, h136, eq_comm]

/-- `fcsr` is the rounding mode above the five flags (rules R38, R368). -/
theorem State.csrGet_fcsr (s : State) : s.csrGet .fcsr = s.frm.toNat * 32 + s.fflags.toNat := by
  rw [State.csrGet, BitVec.toNat_append, ← Nat.shiftLeft_add_eq_or_of_lt s.fflags.isLt, Nat.shiftLeft_eq]

/-- Bit 0 of `mepc` reads 0 (rule R390). -/
theorem State.csrGet_mepc (s : State) : s.csrGet .mepc = s.mepc.toNat / 2 * 2 := by
  have hvalue : s.mepcValue = BitVec.ofNat 64 (s.mepc.toNat / 2 * 2) := clear_low s.mepc 1
  rw [State.csrGet, hvalue, BitVec.toNat_ofNat, Nat.mod_eq_of_lt]
  omega

/-- FP registers exist where FLEN is not absent (rules R6, R7). -/
theorem fbits_ne_zero {c : Config} (h : c.flen ≠ .absent) : c.fbits ≠ 0 := by
  rw [Config.fbits]
  cases hf : c.flen
  · exact absurd hf h
  all_goals decide

/-- Settles O41: the two open addresses are tried first, and the others are told apart by their numbers. -/
theorem csrMap : Obligations.CsrMap := by
  intro s hdistinct hothers
  have hfixed : ∀ a ∈ [0x001#12, 0x002#12, 0x003#12, 0x300#12, 0x305#12, 0x340#12, 0x341#12, 0x342#12, 0x343#12],
      a ≠ s.cfg.csrVl ∧ a ≠ s.cfg.csrVstart := fun a ha => (hothers a ha).imp Ne.symm Ne.symm
  simp only [List.forall_mem_cons, List.not_mem_nil, false_imp_iff, implies_true, and_true] at hfixed
  refine ⟨?_, ?_, rfl, rfl, fun hflen => ?_, fun htrap => ?_⟩
  · rw [csrAt, if_pos rfl]
  · rw [csrAt, if_neg hdistinct.symm, if_pos rfl]
  · have hfbits := fbits_ne_zero hflen
    refine ⟨?_, ?_, ?_, rfl, rfl, s.csrGet_fcsr⟩ <;> simp [csrAt, hfixed, hfbits]
  · refine ⟨?_, ?_, ?_, ?_, ?_, ?_, by simp [State.csrGet_mstatus_testBit], by simp [State.csrGet_mstatus_testBit],
      fun k h3 h7 => by simp [State.csrGet_mstatus_testBit, h3, h7], rfl, rfl, s.csrGet_mepc, rfl, rfl⟩ <;>
      simp [csrAt, hfixed, htrap]

end Sys2Proof.Machine
end

section
/-! PROOFS. Decoding after encoding (rules R66, R71 to R99, R331, R332). The field codes are inverses; each format's
word has its fields where the decoder takes them; so each opcode decodes to its selection by the function fields, and
the instructions are a case split over the opcodes. -/

namespace Sys2Proof

section
open BitVec

/-! ## Field codes -/

@[simp] theorem Fmt.ofBits_toBits (f : Fmt) : Fmt.ofBits f.toBits = f := by cases f <;> rfl

@[simp] theorem SvLen.ofBits_toBits (l : SvLen) : SvLen.ofBits l.toBits = l := by cases l <;> rfl

@[simp] theorem IType.ofBits_toBits (t : IType) : IType.ofBits t.toBits = t := by cases t <;> rfl

@[simp] theorem Lsk.ofBits_toBits (k : Lsk) : Lsk.ofBits k.toBits = k := by
  rcases k with _ | _ | k | k
  · rfl
  · rfl
  · fin_cases k <;> rfl
  · fin_cases k <;> rfl

@[simp] theorem Pred.ofBits?_toBits (p : Pred) : Pred.ofBits? p.toBits = some p := by
  rcases p with _ | ⟨r, sense⟩
  · rfl
  · cases r <;> cases sense <;> rfl

@[simp] theorem withRm_toBits (rm : Rm) (k : Rm → Instr) : withRm rm.toBits k = .ok (k rm) := by
  rcases rm with m | _
  · cases m <;> rfl
  · rfl

@[simp] theorem Vtp.ofBits?_toBits (v : Vtp) : Vtp.ofBits? v.toBits = some v := by
  have hpred : v.toBits.extractLsb' 2 3 = v.pred.toBits := extractLsb'_append_eq_left
  have hsvlen : v.toBits.extractLsb' 0 2 = v.svlen.toBits := extractLsb'_append_eq_right
  simp [Vtp.ofBits?, hpred, hsvlen]

/-- A predicate that vitp6 can hold has a zero high bit (rule R93). -/
theorem Pred.toBits_of_fitsVitp {p : Pred} (h : p.fitsVitp = true) : 0b0#1 ++ p.toBits.extractLsb' 0 2 = p.toBits := by
  rcases p with _ | ⟨r, sense⟩
  · rfl
  · cases r <;> cases sense <;> first | rfl | exact nomatch h

/-! The words below are nested appends. Simplification must leave their widths unevaluated (`-Nat.reduceAdd`), or the
lemmas about an append no longer see one. -/

theorem Vitp.toBits_fields {b : BitVec 6} {v : Vitp} (hb : b = v.toBits) :
    b.extractLsb' 0 2 = v.svlen.toBits ∧ b.extractLsb' 2 2 = v.pred.toBits.extractLsb' 0 2 ∧
      b.extractLsb' 4 2 = v.itype.toBits := by
  subst hb
  refine ⟨?_, ?_, ?_⟩
  all_goals
    show (v.itype.toBits ++ (v.pred.toBits.extractLsb' 0 2 ++ v.svlen.toBits)).extractLsb' _ _ = _
    simp (disch := omega) [extractLsb'_append_eq_of_add_le, extractLsb'_append_eq_of_le, -Nat.reduceAdd]

theorem Vitp.ofBits?_toBits {v : Vitp} (h : v.pred.fitsVitp = true) : Vitp.ofBits? v.toBits = some v := by
  simp [Vitp.ofBits?, Vitp.toBits_fields rfl, Pred.toBits_of_fitsVitp h]

/-! ## Fields of the 32-bit formats (rules R331, R332) -/

theorem wordR_fields {w : BitVec 32} {f7 : BitVec 7} {rs2 rs1 : BitVec 5} {f3 : BitVec 3} {rd : BitVec 5}
    {op : BitVec 7} (hw : w = wordR f7 rs2 rs1 f3 rd op) :
    w.extractLsb' 0 7 = op ∧ w.extractLsb' 7 5 = rd ∧ w.extractLsb' 12 3 = f3 ∧ w.extractLsb' 15 5 = rs1 ∧
      w.extractLsb' 20 5 = rs2 ∧ w.extractLsb' 25 7 = f7 := by
  subst hw
  refine ⟨?_, ?_, ?_, ?_, ?_, ?_⟩
  all_goals
    show (f7 ++ (rs2 ++ (rs1 ++ (f3 ++ (rd ++ op))))).extractLsb' _ _ = _
    simp (disch := omega) [extractLsb'_append_eq_of_add_le, extractLsb'_append_eq_of_le, -Nat.reduceAdd]

theorem wordR4_fields {w : BitVec 32} {rs3 : BitVec 5} {fmt : Fmt} {rs2 rs1 : BitVec 5} {rm : Rm} {rd : BitVec 5}
    {op : BitVec 7} (hw : w = wordR4 rs3 fmt rs2 rs1 rm rd op) :
    w.extractLsb' 0 7 = op ∧ w.extractLsb' 7 5 = rd ∧ w.extractLsb' 12 3 = rm.toBits ∧ w.extractLsb' 15 5 = rs1 ∧
      w.extractLsb' 20 5 = rs2 ∧ w.extractLsb' 25 2 = fmt.toBits ∧ w.extractLsb' 27 5 = rs3 := by
  subst hw
  refine ⟨?_, ?_, ?_, ?_, ?_, ?_, ?_⟩
  all_goals
    show (rs3 ++ (fmt.toBits ++ (rs2 ++ (rs1 ++ (rm.toBits ++ (rd ++ op)))))).extractLsb' _ _ = _
    simp (disch := omega) [extractLsb'_append_eq_of_add_le, extractLsb'_append_eq_of_le, -Nat.reduceAdd]

theorem wordF_fields {w : BitVec 32} {fop : BitVec 5} {fmt : Fmt} {rs2 rs1 : BitVec 5} {f3 : BitVec 3}
    {rd : BitVec 5} (hw : w = wordF fop fmt rs2 rs1 f3 rd) :
    w.extractLsb' 0 7 = 0b1010011#7 ∧ w.extractLsb' 7 5 = rd ∧ w.extractLsb' 12 3 = f3 ∧ w.extractLsb' 15 5 = rs1 ∧
      w.extractLsb' 20 5 = rs2 ∧ w.extractLsb' 25 2 = fmt.toBits ∧ w.extractLsb' 27 5 = fop := by
  subst hw
  refine ⟨?_, ?_, ?_, ?_, ?_, ?_, ?_⟩
  all_goals
    show (fop ++ (fmt.toBits ++ (rs2 ++ (rs1 ++ (f3 ++ (rd ++ 0b1010011#7)))))).extractLsb' _ _ = _
    simp (disch := omega) [extractLsb'_append_eq_of_add_le, extractLsb'_append_eq_of_le, -Nat.reduceAdd]

theorem wordI_fields {w : BitVec 32} {imm : BitVec 12} {rs1 : BitVec 5} {f3 : BitVec 3} {rd : BitVec 5}
    {op : BitVec 7} (hw : w = wordI imm rs1 f3 rd op) :
    w.extractLsb' 0 7 = op ∧ w.extractLsb' 7 5 = rd ∧ w.extractLsb' 12 3 = f3 ∧ w.extractLsb' 15 5 = rs1 ∧
      immI w = imm := by
  subst hw
  refine ⟨?_, ?_, ?_, ?_, ?_⟩
  all_goals
    show (imm ++ (rs1 ++ (f3 ++ (rd ++ op)))).extractLsb' _ _ = _
    simp (disch := omega) [extractLsb'_append_eq_of_add_le, extractLsb'_append_eq_of_le, -Nat.reduceAdd]

theorem wordS_fields {w : BitVec 32} {imm : BitVec 12} {rs2 rs1 : BitVec 5} {f3 : BitVec 3} {op : BitVec 7}
    (hw : w = wordS imm rs2 rs1 f3 op) :
    w.extractLsb' 0 7 = op ∧ w.extractLsb' 7 5 = imm.extractLsb' 0 5 ∧ w.extractLsb' 12 3 = f3 ∧
      w.extractLsb' 15 5 = rs1 ∧ w.extractLsb' 20 5 = rs2 ∧ w.extractLsb' 25 7 = imm.extractLsb' 5 7 := by
  subst hw
  refine ⟨?_, ?_, ?_, ?_, ?_, ?_⟩
  all_goals
    show (imm.extractLsb' 5 7 ++ (rs2 ++ (rs1 ++ (f3 ++ (imm.extractLsb' 0 5 ++ op))))).extractLsb' _ _ = _
    simp (disch := omega) [extractLsb'_append_eq_of_add_le, extractLsb'_append_eq_of_le, -Nat.reduceAdd]

theorem immS_wordS (imm : BitVec 12) (rs2 rs1 : BitVec 5) (f3 : BitVec 3) (op : BitVec 7) :
    immS (wordS imm rs2 rs1 f3 op) = imm := by
  simp [immS, wordS_fields rfl, extractLsb'_append_extractLsb'_eq_extractLsb', -Nat.reduceAdd]

theorem wordB_fields {w : BitVec 32} {imm : BitVec 12} {rs2 rs1 : BitVec 5} {f3 : BitVec 3}
    (hw : w = wordB imm rs2 rs1 f3) :
    w.extractLsb' 0 7 = 0b1100011#7 ∧ w.extractLsb' 7 1 = imm.extractLsb' 10 1 ∧
      w.extractLsb' 8 4 = imm.extractLsb' 0 4 ∧ w.extractLsb' 12 3 = f3 ∧ w.extractLsb' 15 5 = rs1 ∧
      w.extractLsb' 20 5 = rs2 ∧ w.extractLsb' 25 6 = imm.extractLsb' 4 6 ∧
      w.extractLsb' 31 1 = imm.extractLsb' 11 1 := by
  subst hw
  refine ⟨?_, ?_, ?_, ?_, ?_, ?_, ?_, ?_⟩
  all_goals
    show (imm.extractLsb' 11 1 ++ (imm.extractLsb' 4 6 ++ (rs2 ++ (rs1 ++ (f3 ++ (imm.extractLsb' 0 4 ++
      (imm.extractLsb' 10 1 ++ 0b1100011#7))))))).extractLsb' _ _ = _
    simp (disch := omega) [extractLsb'_append_eq_of_add_le, extractLsb'_append_eq_of_le, -Nat.reduceAdd]

theorem immB_wordB (imm : BitVec 12) (rs2 rs1 : BitVec 5) (f3 : BitVec 3) : immB (wordB imm rs2 rs1 f3) = imm := by
  simp [immB, wordB_fields rfl, extractLsb'_append_extractLsb'_eq_extractLsb', -Nat.reduceAdd]

theorem wordU_fields {w : BitVec 32} {imm : BitVec 20} {rd : BitVec 5} {op : BitVec 7} (hw : w = wordU imm rd op) :
    w.extractLsb' 0 7 = op ∧ w.extractLsb' 7 5 = rd ∧ w.extractLsb' 12 20 = imm := by
  subst hw
  refine ⟨?_, ?_, ?_⟩
  all_goals
    show (imm ++ (rd ++ op)).extractLsb' _ _ = _
    simp (disch := omega) [extractLsb'_append_eq_of_add_le, extractLsb'_append_eq_of_le, -Nat.reduceAdd]

theorem wordJ_fields {w : BitVec 32} {imm : BitVec 20} {rd : BitVec 5} (hw : w = wordJ imm rd) :
    w.extractLsb' 0 7 = 0b1101111#7 ∧ w.extractLsb' 7 5 = rd ∧ w.extractLsb' 12 8 = imm.extractLsb' 11 8 ∧
      w.extractLsb' 20 1 = imm.extractLsb' 10 1 ∧ w.extractLsb' 21 10 = imm.extractLsb' 0 10 ∧
      w.extractLsb' 31 1 = imm.extractLsb' 19 1 := by
  subst hw
  refine ⟨?_, ?_, ?_, ?_, ?_, ?_⟩
  all_goals
    show (imm.extractLsb' 19 1 ++ (imm.extractLsb' 0 10 ++ (imm.extractLsb' 10 1 ++ (imm.extractLsb' 11 8 ++
      (rd ++ 0b1101111#7))))).extractLsb' _ _ = _
    simp (disch := omega) [extractLsb'_append_eq_of_add_le, extractLsb'_append_eq_of_le, -Nat.reduceAdd]

theorem immJ_wordJ (imm : BitVec 20) (rd : BitVec 5) : immJ (wordJ imm rd) = imm := by
  simp [immJ, wordJ_fields rfl, extractLsb'_append_extractLsb'_eq_extractLsb', -Nat.reduceAdd]

/-! ## The opcodes of a 32-bit word -/

section
variable (rd rs1 rs2 rs3 : BitVec 5) (imm : BitVec 12) (up : BitVec 20) (f3 : BitVec 3) (f7 : BitVec 7) (fmt : Fmt)
  (rm : Rm)

theorem decode32_load : decode32 (wordI imm rs1 f3 rd 0b0000011#7) = decodeLoad rd rs1 imm f3.toNat := by
  simp [decode32, wordI_fields rfl]

theorem decode32_loadFp : decode32 (wordI imm rs1 f3 rd 0b0000111#7) = decodeLoadFp rd rs1 imm f3.toNat := by
  simp [decode32, wordI_fields rfl]

theorem decode32_fence : decode32 (wordI imm rs1 0b000#3 rd 0b0001111#7) = .ok (.fence rd rs1 imm) := by
  simp [decode32, wordI_fields rfl]

theorem decode32_fenceI : decode32 (wordI imm rs1 0b001#3 rd 0b0001111#7) = .ok (.fenceI rd rs1 imm) := by
  simp [decode32, wordI_fields rfl]

theorem decode32_opImm : decode32 (wordI imm rs1 f3 rd 0b0010011#7) = decodeOpImm rd rs1 imm f3.toNat := by
  simp [decode32, wordI_fields rfl]

theorem decode32_auipc : decode32 (wordU up rd 0b0010111#7) = .ok (.auipc rd up) := by
  simp [decode32, wordU_fields rfl]

theorem decode32_opImm32 : decode32 (wordI imm rs1 f3 rd 0b0011011#7) = decodeOpImm32 rd rs1 imm f3.toNat := by
  simp [decode32, wordI_fields rfl]

theorem decode32_store : decode32 (wordS imm rs2 rs1 f3 0b0100011#7) = decodeStore rs2 rs1 imm f3.toNat := by
  simp [decode32, wordS_fields rfl, immS_wordS]

theorem decode32_storeFp : decode32 (wordS imm rs2 rs1 f3 0b0100111#7) = decodeStoreFp rs2 rs1 imm f3.toNat := by
  simp [decode32, wordS_fields rfl, immS_wordS]

theorem decode32_op : decode32 (wordR f7 rs2 rs1 f3 rd 0b0110011#7) = decodeOp rd rs1 rs2 f7.toNat f3.toNat := by
  simp [decode32, wordR_fields rfl]

theorem decode32_lui : decode32 (wordU up rd 0b0110111#7) = .ok (.lui rd up) := by
  simp [decode32, wordU_fields rfl]

theorem decode32_op32 : decode32 (wordR f7 rs2 rs1 f3 rd 0b0111011#7) = decodeOp32 rd rs1 rs2 f7.toNat f3.toNat := by
  simp [decode32, wordR_fields rfl]

theorem decode32_fmadd :
    decode32 (wordR4 rs3 fmt rs2 rs1 rm rd 0b1000011#7) = .ok (.fmaddFmt fmt rm rd rs1 rs2 rs3) := by
  simp [decode32, wordR4_fields rfl]

theorem decode32_fmsub :
    decode32 (wordR4 rs3 fmt rs2 rs1 rm rd 0b1000111#7) = .ok (.fmsubFmt fmt rm rd rs1 rs2 rs3) := by
  simp [decode32, wordR4_fields rfl]

theorem decode32_fnmsub :
    decode32 (wordR4 rs3 fmt rs2 rs1 rm rd 0b1001011#7) = .ok (.fnmsubFmt fmt rm rd rs1 rs2 rs3) := by
  simp [decode32, wordR4_fields rfl]

theorem decode32_fnmadd :
    decode32 (wordR4 rs3 fmt rs2 rs1 rm rd 0b1001111#7) = .ok (.fnmaddFmt fmt rm rd rs1 rs2 rs3) := by
  simp [decode32, wordR4_fields rfl]

theorem decode32_opFp (fop : BitVec 5) :
    decode32 (wordF fop fmt rs2 rs1 f3 rd) = decodeOpFp fop.toNat fmt rd rs1 rs2 f3 := by
  simp [decode32, wordF_fields rfl]

theorem decode32_branch : decode32 (wordB imm rs2 rs1 f3) = decodeBranch rs1 rs2 imm f3.toNat := by
  simp [decode32, wordB_fields rfl, immB_wordB]

theorem decode32_jalr : decode32 (wordI imm rs1 0b000#3 rd 0b1100111#7) = .ok (.jalr rd rs1 imm) := by
  simp [decode32, wordI_fields rfl]

theorem decode32_jal : decode32 (wordJ up rd) = .ok (.jal rd up) := by
  simp [decode32, wordJ_fields rfl, immJ_wordJ]

theorem decode32_system : decode32 (wordI imm rs1 f3 rd 0b1110011#7) =
    decodeSystem (wordI imm rs1 f3 rd 0b1110011#7) rd rs1 imm f3.toNat := by
  simp [decode32, wordI_fields rfl]

end

/-- The immediate of a shift: the function field above the amount (rules R509 to R511). -/
theorem shiftImm_fields {imm : BitVec 12} {f6 shamt : BitVec 6} (h : imm = f6 ++ shamt) :
    imm.extractLsb' 0 6 = shamt ∧ imm.extractLsb' 6 6 = f6 := by
  subst h
  exact ⟨extractLsb'_append_eq_right, extractLsb'_append_eq_left⟩

/-- The immediate of a word shift (rules R523 to R525). -/
theorem shiftImm32_fields {imm : BitVec 12} {f7 : BitVec 7} {shamt : BitVec 5} (h : imm = f7 ++ shamt) :
    imm.extractLsb' 0 5 = shamt ∧ imm.extractLsb' 5 7 = f7 := by
  subst h
  exact ⟨extractLsb'_append_eq_right, extractLsb'_append_eq_left⟩

/-- The rs2 slot of an FP-to-FP conversion names the source format (rules R126, R582). -/
theorem srcSlot_fields {b : BitVec 5} {src : Fmt} (hb : b = srcSlot src) :
    b.extractLsb' 0 2 = src.toBits ∧ b.extractLsb' 2 3 = 0b000#3 := by
  subst hb
  exact ⟨extractLsb'_append_eq_right, extractLsb'_append_eq_left⟩

theorem decodeFcvtFmt_srcSlot {fmt src : Fmt} (h : src ≠ fmt) (rm : Rm) (rd rs1 : BitVec 5) :
    decodeFcvtFmt fmt rd rs1 (srcSlot src) rm.toBits = .ok (.fcvtFmtFmt fmt src rm rd rs1) := by
  simp [decodeFcvtFmt, srcSlot_fields rfl, h]

/-! ## Fields of the 48-bit formats (rules R74 to R82) -/

theorem hi1_append_lo5 (r : BitVec 6) : hi1 r ++ lo5 r = r := extractLsb'_append_extractLsb'

theorem bit1_eq_one (b : Bool) : (bit1 b == 1#1) = b := by cases b <;> rfl

theorem wordLd_fields {w : BitVec 48} {op5 : BitVec 5} {width : BitVec 3} {o : MemOps} (hw : w = wordLd op5 width o) :
    w.extractLsb' 0 7 = 0b0011111#7 ∧ w.extractLsb' 7 5 = o.vtp.toBits ∧ w.extractLsb' 12 4 = o.lsk.toBits ∧
      w.extractLsb' 16 1 = hi1 o.base ∧ w.extractLsb' 17 1 = hi1 o.data ∧ w.extractLsb' 18 5 = op5 ∧
      w.extractLsb' 23 5 = lo5 o.data ∧ w.extractLsb' 28 3 = width ∧ w.extractLsb' 31 5 = lo5 o.base ∧
      w.extractLsb' 36 12 = o.imm := by
  subst hw
  refine ⟨?_, ?_, ?_, ?_, ?_, ?_, ?_, ?_, ?_, ?_⟩
  all_goals
    show (o.imm ++ (lo5 o.base ++ (width ++ (lo5 o.data ++ (op5 ++ (hi1 o.data ++ (hi1 o.base ++ (o.lsk.toBits ++
      (o.vtp.toBits ++ 0b0011111#7))))))))).extractLsb' _ _ = _
    simp (disch := omega) [extractLsb'_append_eq_of_add_le, extractLsb'_append_eq_of_le, -Nat.reduceAdd]

theorem wordSt_fields {w : BitVec 48} {op5 : BitVec 5} {width : BitVec 3} {o : MemOps} (hw : w = wordSt op5 width o) :
    w.extractLsb' 0 7 = 0b0011111#7 ∧ w.extractLsb' 7 5 = o.vtp.toBits ∧
      w.extractLsb' 12 3 = o.lsk.toBits.extractLsb' 0 3 ∧ w.extractLsb' 15 1 = hi1 o.data ∧
      w.extractLsb' 16 1 = hi1 o.base ∧ w.extractLsb' 17 1 = o.lsk.toBits.extractLsb' 3 1 ∧
      w.extractLsb' 18 5 = op5 ∧ w.extractLsb' 23 5 = o.imm.extractLsb' 0 5 ∧ w.extractLsb' 28 3 = width ∧
      w.extractLsb' 31 5 = lo5 o.base ∧ w.extractLsb' 36 5 = lo5 o.data ∧
      w.extractLsb' 41 7 = o.imm.extractLsb' 5 7 := by
  subst hw
  refine ⟨?_, ?_, ?_, ?_, ?_, ?_, ?_, ?_, ?_, ?_, ?_, ?_⟩
  all_goals
    show (o.imm.extractLsb' 5 7 ++ (lo5 o.data ++ (lo5 o.base ++ (width ++ (o.imm.extractLsb' 0 5 ++ (op5 ++
      (o.lsk.toBits.extractLsb' 3 1 ++ (hi1 o.base ++ (hi1 o.data ++ (o.lsk.toBits.extractLsb' 0 3 ++
        (o.vtp.toBits ++ 0b0011111#7))))))))))).extractLsb' _ _ = _
    simp (disch := omega) [extractLsb'_append_eq_of_add_le, extractLsb'_append_eq_of_le, -Nat.reduceAdd]

theorem wordP48r_fields {w : BitVec 48} {f7 : BitVec 7} {f3 : BitVec 3} {op5 : BitVec 5} {o : ROps}
    (hw : w = wordP48r f7 f3 op5 o) :
    w.extractLsb' 0 7 = 0b0011111#7 ∧ w.extractLsb' 7 6 = o.vitp.toBits ∧ w.extractLsb' 13 1 = bit1 o.vs1 ∧
      w.extractLsb' 14 1 = bit1 o.vs2 ∧ w.extractLsb' 15 1 = hi1 o.rs2 ∧ w.extractLsb' 16 1 = hi1 o.rs1 ∧
      w.extractLsb' 17 1 = hi1 o.rd ∧ w.extractLsb' 18 5 = op5 ∧ w.extractLsb' 23 5 = lo5 o.rd ∧
      w.extractLsb' 28 3 = f3 ∧ w.extractLsb' 31 5 = lo5 o.rs1 ∧ w.extractLsb' 36 5 = lo5 o.rs2 ∧
      w.extractLsb' 41 7 = f7 := by
  subst hw
  refine ⟨?_, ?_, ?_, ?_, ?_, ?_, ?_, ?_, ?_, ?_, ?_, ?_, ?_⟩
  all_goals
    show (f7 ++ (lo5 o.rs2 ++ (lo5 o.rs1 ++ (f3 ++ (lo5 o.rd ++ (op5 ++ (hi1 o.rd ++ (hi1 o.rs1 ++ (hi1 o.rs2 ++
      (bit1 o.vs2 ++ (bit1 o.vs1 ++ (o.vitp.toBits ++ 0b0011111#7)))))))))))).extractLsb' _ _ = _
    simp (disch := omega) [extractLsb'_append_eq_of_add_le, extractLsb'_append_eq_of_le, -Nat.reduceAdd]

theorem wordP48i_fields {w : BitVec 48} {f3 : BitVec 3} {op5 : BitVec 5} {o : IOps} (hw : w = wordP48i f3 op5 o) :
    w.extractLsb' 0 7 = 0b0011111#7 ∧ w.extractLsb' 7 6 = o.vitp.toBits ∧ w.extractLsb' 13 1 = bit1 o.vs1 ∧
      w.extractLsb' 14 1 = bit1 o.vd ∧ w.extractLsb' 15 1 = 0b0#1 ∧ w.extractLsb' 16 1 = hi1 o.rs1 ∧
      w.extractLsb' 17 1 = hi1 o.rd ∧ w.extractLsb' 18 5 = op5 ∧ w.extractLsb' 23 5 = lo5 o.rd ∧
      w.extractLsb' 28 3 = f3 ∧ w.extractLsb' 31 5 = lo5 o.rs1 ∧ w.extractLsb' 36 12 = o.imm := by
  subst hw
  refine ⟨?_, ?_, ?_, ?_, ?_, ?_, ?_, ?_, ?_, ?_, ?_, ?_⟩
  all_goals
    show (o.imm ++ (lo5 o.rs1 ++ (f3 ++ (lo5 o.rd ++ (op5 ++ (hi1 o.rd ++ (hi1 o.rs1 ++ (0b0#1 ++ (bit1 o.vd ++
      (bit1 o.vs1 ++ (o.vitp.toBits ++ 0b0011111#7))))))))))).extractLsb' _ _ = _
    simp (disch := omega) [extractLsb'_append_eq_of_add_le, extractLsb'_append_eq_of_le, -Nat.reduceAdd]

/-- The operands of P48I in which those of a shift immediate stand, `f6` being imm[11:6] (rule R95). -/
def ShOps.toIOps (o : ShOps) (f6 : BitVec 6) : IOps :=
  { rd := o.rd, rs1 := o.rs1, imm := f6 ++ o.shamt, vd := o.vd, vs1 := o.vs1, vitp := o.vitp }

theorem ShOps.toIOps_imm_high (o : ShOps) (f6 : BitVec 6) : (o.toIOps f6).imm.extractLsb' 6 6 = f6 :=
  extractLsb'_append_eq_left

theorem ShOps.ofIOps_toIOps (o : ShOps) (f6 : BitVec 6) : ShOps.ofIOps (o.toIOps f6) = o := by
  have hshamt : (o.toIOps f6).imm.extractLsb' 0 6 = o.shamt := extractLsb'_append_eq_right
  rw [ShOps.ofIOps, hshamt]
  rfl

/-- A shift immediate stands in a P48I word (rule R95). -/
theorem wordP48sh_eq (f6 : BitVec 6) (f3 : BitVec 3) (op5 : BitVec 5) (o : ShOps) :
    wordP48sh f6 f3 op5 o = wordP48i f3 op5 (o.toIOps f6) := by
  have happend : ∀ {n : Nat} (x : BitVec n), (f6 ++ (o.shamt ++ x)).toNat = ((f6 ++ o.shamt) ++ x).toNat := by
    intro n x
    rw [append_assoc, toNat_cast]
  exact eq_of_toNat_eq (happend _)

theorem wordP48u_fields {w : BitVec 48} {op5 : BitVec 5} {o : UOps} (hw : w = wordP48u op5 o) :
    w.extractLsb' 0 7 = 0b0011111#7 ∧ w.extractLsb' 7 6 = o.vitp.toBits ∧ w.extractLsb' 13 1 = 0b0#1 ∧
      w.extractLsb' 14 1 = bit1 o.vd ∧ w.extractLsb' 15 1 = 0b0#1 ∧ w.extractLsb' 16 1 = 0b0#1 ∧
      w.extractLsb' 17 1 = hi1 o.rd ∧ w.extractLsb' 18 5 = op5 ∧ w.extractLsb' 23 5 = lo5 o.rd ∧
      w.extractLsb' 28 20 = o.imm := by
  subst hw
  refine ⟨?_, ?_, ?_, ?_, ?_, ?_, ?_, ?_, ?_, ?_⟩
  all_goals
    show (o.imm ++ (lo5 o.rd ++ (op5 ++ (hi1 o.rd ++ (0b00#2 ++ (bit1 o.vd ++ (0b0#1 ++ (o.vitp.toBits ++
      0b0011111#7)))))))).extractLsb' _ _ = _
    simp (disch := omega) [extractLsb'_append_eq_of_add_le, extractLsb'_append_eq_of_le, -Nat.reduceAdd]

theorem wordFr_fields {w : BitVec 48} {fop : BitVec 5} {rm : BitVec 3} {o : FrOps} (hw : w = wordFr fop rm o) :
    w.extractLsb' 0 7 = 0b0011111#7 ∧ w.extractLsb' 7 5 = o.vtp.toBits ∧ w.extractLsb' 12 1 = 0b0#1 ∧
      w.extractLsb' 13 1 = bit1 o.vs1 ∧ w.extractLsb' 14 1 = bit1 o.vs2 ∧ w.extractLsb' 15 1 = hi1 o.rs2 ∧
      w.extractLsb' 16 1 = hi1 o.rs1 ∧ w.extractLsb' 17 1 = hi1 o.rd ∧ w.extractLsb' 18 5 = 0b10100#5 ∧
      w.extractLsb' 23 5 = lo5 o.rd ∧ w.extractLsb' 28 3 = rm ∧ w.extractLsb' 31 5 = lo5 o.rs1 ∧
      w.extractLsb' 36 5 = lo5 o.rs2 ∧ w.extractLsb' 41 2 = o.fmt.toBits ∧ w.extractLsb' 43 5 = fop := by
  subst hw
  refine ⟨?_, ?_, ?_, ?_, ?_, ?_, ?_, ?_, ?_, ?_, ?_, ?_, ?_, ?_, ?_⟩
  all_goals
    show (fop ++ (o.fmt.toBits ++ (lo5 o.rs2 ++ (lo5 o.rs1 ++ (rm ++ (lo5 o.rd ++ (0b10100#5 ++ (hi1 o.rd ++
      (hi1 o.rs1 ++ (hi1 o.rs2 ++ (bit1 o.vs2 ++ (bit1 o.vs1 ++ (0b0#1 ++ (o.vtp.toBits ++
        0b0011111#7)))))))))))))).extractLsb' _ _ = _
    simp (disch := omega) [extractLsb'_append_eq_of_add_le, extractLsb'_append_eq_of_le, -Nat.reduceAdd]

theorem wordFi_fields {w : BitVec 48} {fop funct5 : BitVec 5} {rm : BitVec 3} {o : FiOps}
    (hw : w = wordFi fop funct5 rm o) :
    w.extractLsb' 0 7 = 0b0011111#7 ∧ w.extractLsb' 7 5 = o.vtp.toBits ∧ w.extractLsb' 12 1 = 0b0#1 ∧
      w.extractLsb' 13 1 = bit1 o.vs1 ∧ w.extractLsb' 14 1 = bit1 o.vd ∧ w.extractLsb' 15 1 = 0b0#1 ∧
      w.extractLsb' 16 1 = hi1 o.rs1 ∧ w.extractLsb' 17 1 = hi1 o.rd ∧ w.extractLsb' 18 5 = 0b10100#5 ∧
      w.extractLsb' 23 5 = lo5 o.rd ∧ w.extractLsb' 28 3 = rm ∧ w.extractLsb' 31 5 = lo5 o.rs1 ∧
      w.extractLsb' 36 5 = funct5 ∧ w.extractLsb' 41 2 = o.fmt.toBits ∧ w.extractLsb' 43 5 = fop := by
  subst hw
  refine ⟨?_, ?_, ?_, ?_, ?_, ?_, ?_, ?_, ?_, ?_, ?_, ?_, ?_, ?_, ?_⟩
  all_goals
    show (fop ++ (o.fmt.toBits ++ (funct5 ++ (lo5 o.rs1 ++ (rm ++ (lo5 o.rd ++ (0b10100#5 ++ (hi1 o.rd ++
      (hi1 o.rs1 ++ (0b0#1 ++ (bit1 o.vd ++ (bit1 o.vs1 ++ (0b0#1 ++ (o.vtp.toBits ++
        0b0011111#7)))))))))))))).extractLsb' _ _ = _
    simp (disch := omega) [extractLsb'_append_eq_of_add_le, extractLsb'_append_eq_of_le, -Nat.reduceAdd]

theorem wordFr4_fields {w : BitVec 48} {op5 : BitVec 5} {rm : Rm} {o : Fr4Ops} (hw : w = wordFr4 op5 rm o) :
    w.extractLsb' 0 7 = 0b0011111#7 ∧ w.extractLsb' 7 5 = o.vtp.toBits ∧ w.extractLsb' 12 1 = bit1 o.vs3 ∧
      w.extractLsb' 13 1 = hi1 o.rs3 ∧ w.extractLsb' 14 1 = bit1 o.vs2 ∧ w.extractLsb' 15 1 = hi1 o.rs2 ∧
      w.extractLsb' 16 1 = hi1 o.rs1 ∧ w.extractLsb' 17 1 = hi1 o.rd ∧ w.extractLsb' 18 5 = op5 ∧
      w.extractLsb' 23 5 = lo5 o.rd ∧ w.extractLsb' 28 3 = rm.toBits ∧ w.extractLsb' 31 5 = lo5 o.rs1 ∧
      w.extractLsb' 36 5 = lo5 o.rs2 ∧ w.extractLsb' 41 2 = o.fmt.toBits ∧ w.extractLsb' 43 5 = lo5 o.rs3 := by
  subst hw
  refine ⟨?_, ?_, ?_, ?_, ?_, ?_, ?_, ?_, ?_, ?_, ?_, ?_, ?_, ?_, ?_⟩
  all_goals
    show (lo5 o.rs3 ++ (o.fmt.toBits ++ (lo5 o.rs2 ++ (lo5 o.rs1 ++ (rm.toBits ++ (lo5 o.rd ++ (op5 ++ (hi1 o.rd ++
      (hi1 o.rs1 ++ (hi1 o.rs2 ++ (bit1 o.vs2 ++ (hi1 o.rs3 ++ (bit1 o.vs3 ++ (o.vtp.toBits ++
        0b0011111#7)))))))))))))).extractLsb' _ _ = _
    simp (disch := omega) [extractLsb'_append_eq_of_add_le, extractLsb'_append_eq_of_le, -Nat.reduceAdd]

/-! ## The 48-bit formats and opcodes -/

theorem decodeP48ld_wordLd (op5 : BitVec 5) (width : BitVec 3) (o : MemOps) (k : MemOps → Except DecodeError Instr) :
    decodeP48ld (wordLd op5 width o) k = k o := by
  simp [decodeP48ld, decodeMem, reg6, wordLd_fields rfl, hi1_append_lo5]

theorem decodeP48st_wordSt (op5 : BitVec 5) (width : BitVec 3) (o : MemOps) (k : MemOps → Except DecodeError Instr) :
    decodeP48st (wordSt op5 width o) k = k o := by
  have himm : o.imm.extractLsb' 5 7 ++ o.imm.extractLsb' 0 5 = o.imm := extractLsb'_append_extractLsb'
  have hlsk : o.lsk.toBits.extractLsb' 3 1 ++ o.lsk.toBits.extractLsb' 0 3 = o.lsk.toBits :=
    extractLsb'_append_extractLsb'
  simp [decodeP48st, decodeMem, reg6, wordSt_fields rfl, hi1_append_lo5, himm, hlsk]

theorem decodeP48r_wordP48r {o : ROps} (h : o.vitp.pred.fitsVitp = true) (f7 : BitVec 7) (f3 : BitVec 3)
    (op5 : BitVec 5) (k : ROps → Except DecodeError Instr) : decodeP48r (wordP48r f7 f3 op5 o) k = k o := by
  simp [decodeP48r, reg6, bitAt, wordP48r_fields rfl, Vitp.ofBits?_toBits h, hi1_append_lo5, bit1_eq_one]

theorem decodeP48i_wordP48i {o : IOps} (h : o.vitp.pred.fitsVitp = true) (f3 : BitVec 3) (op5 : BitVec 5)
    (k : IOps → Except DecodeError Instr) : decodeP48i (wordP48i f3 op5 o) k = k o := by
  simp [decodeP48i, reg6, bitAt, wordP48i_fields rfl, Vitp.ofBits?_toBits h, hi1_append_lo5, bit1_eq_one]

theorem decodeP48u_wordP48u {o : UOps} (h : o.vitp.pred.fitsVitp = true) (op5 : BitVec 5) (k : UOps → Instr) :
    decodeP48u (wordP48u op5 o) k = .ok (k o) := by
  simp [decodeP48u, reg6, bitAt, wordP48u_fields rfl, Vitp.ofBits?_toBits h, hi1_append_lo5, bit1_eq_one]

theorem decodeP48opFp_wordFr {fop : BitVec 5} (h : isFi fop.toNat = false) (rm : BitVec 3) (o : FrOps) :
    decodeP48opFp (wordFr fop rm o) = selectSvFr fop.toNat rm o := by
  simp [decodeP48opFp, reg6, bitAt, wordFr_fields rfl, h, hi1_append_lo5, bit1_eq_one]

theorem decodeP48opFp_wordFi {fop : BitVec 5} (h : isFi fop.toNat = true) (funct5 : BitVec 5) (rm : BitVec 3)
    (o : FiOps) : decodeP48opFp (wordFi fop funct5 rm o) = selectSvFi fop.toNat funct5 rm o := by
  simp [decodeP48opFp, reg6, bitAt, wordFi_fields rfl, h, hi1_append_lo5, bit1_eq_one]

theorem decodeP48fr4_wordFr4 (op5 : BitVec 5) (rm : Rm) (o : Fr4Ops) (k : Rm → Fr4Ops → Instr) :
    decodeP48fr4 (wordFr4 op5 rm o) k = .ok (k rm o) := by
  simp [decodeP48fr4, reg6, bitAt, wordFr4_fields rfl, hi1_append_lo5, bit1_eq_one]

section
variable (width f3 : BitVec 3) (f7 : BitVec 7) (m : MemOps)

theorem decode48_load : decode48 (wordLd 0b00000#5 width m) = selectSvLoad width.toNat m := by
  simp [decode48, wordLd_fields rfl, decodeP48ld_wordLd]

theorem decode48_loadFp : decode48 (wordLd 0b00001#5 width m) = selectSvLoadFp width.toNat m := by
  simp [decode48, wordLd_fields rfl, decodeP48ld_wordLd]

theorem decode48_store : decode48 (wordSt 0b01000#5 width m) = selectSvStore width.toNat m := by
  simp [decode48, wordSt_fields rfl, decodeP48st_wordSt]

theorem decode48_storeFp : decode48 (wordSt 0b01001#5 width m) = selectSvStoreFp width.toNat m := by
  simp [decode48, wordSt_fields rfl, decodeP48st_wordSt]

theorem decode48_op {o : ROps} (h : o.vitp.pred.fitsVitp = true) :
    decode48 (wordP48r f7 f3 0b01100#5 o) = selectSvOp f7.toNat f3.toNat o := by
  simp [decode48, wordP48r_fields rfl, decodeP48r_wordP48r h]

theorem decode48_op32 {o : ROps} (h : o.vitp.pred.fitsVitp = true) :
    decode48 (wordP48r f7 f3 0b01110#5 o) = selectSvOp32 f7.toNat f3.toNat o := by
  simp [decode48, wordP48r_fields rfl, decodeP48r_wordP48r h]

theorem decode48_opImm {o : IOps} (h : o.vitp.pred.fitsVitp = true) :
    decode48 (wordP48i f3 0b00100#5 o) = selectSvOpImm f3.toNat o := by
  simp [decode48, wordP48i_fields rfl, decodeP48i_wordP48i h]

theorem decode48_opImm32 {o : IOps} (h : o.vitp.pred.fitsVitp = true) :
    decode48 (wordP48i f3 0b00110#5 o) = selectSvOpImm32 f3.toNat o := by
  simp [decode48, wordP48i_fields rfl, decodeP48i_wordP48i h]

theorem decode48_lui {o : UOps} (h : o.vitp.pred.fitsVitp = true) :
    decode48 (wordP48u 0b01101#5 o) = .ok (.svLui o) := by
  simp [decode48, wordP48u_fields rfl, decodeP48u_wordP48u h]

theorem decode48_auipc {o : UOps} (h : o.vitp.pred.fitsVitp = true) :
    decode48 (wordP48u 0b00101#5 o) = .ok (.svAuipc o) := by
  simp [decode48, wordP48u_fields rfl, decodeP48u_wordP48u h]

theorem decode48_fr {fop : BitVec 5} (h : isFi fop.toNat = false) (rm : BitVec 3) (o : FrOps) :
    decode48 (wordFr fop rm o) = selectSvFr fop.toNat rm o := by
  simp [decode48, wordFr_fields rfl, decodeP48opFp_wordFr h]

theorem decode48_fi {fop : BitVec 5} (h : isFi fop.toNat = true) (funct5 : BitVec 5) (rm : BitVec 3) (o : FiOps) :
    decode48 (wordFi fop funct5 rm o) = selectSvFi fop.toNat funct5 rm o := by
  simp [decode48, wordFi_fields rfl, decodeP48opFp_wordFi h]

theorem decode48_fmadd (rm : Rm) (o : Fr4Ops) : decode48 (wordFr4 0b10000#5 rm o) = .ok (.svFmaddFmt rm o) := by
  simp [decode48, wordFr4_fields rfl, decodeP48fr4_wordFr4]

theorem decode48_fmsub (rm : Rm) (o : Fr4Ops) : decode48 (wordFr4 0b10001#5 rm o) = .ok (.svFmsubFmt rm o) := by
  simp [decode48, wordFr4_fields rfl, decodeP48fr4_wordFr4]

theorem decode48_fnmsub (rm : Rm) (o : Fr4Ops) : decode48 (wordFr4 0b10010#5 rm o) = .ok (.svFnmsubFmt rm o) := by
  simp [decode48, wordFr4_fields rfl, decodeP48fr4_wordFr4]

theorem decode48_fnmadd (rm : Rm) (o : Fr4Ops) : decode48 (wordFr4 0b10011#5 rm o) = .ok (.svFnmaddFmt rm o) := by
  simp [decode48, wordFr4_fields rfl, decodeP48fr4_wordFr4]

end

/-- A shift immediate of OP-IMM is selected by f3 and imm[11:6] (rule R95). -/
theorem decode48_shiftImm {o : ShOps} (h : o.vitp.pred.fitsVitp = true) (f6 : BitVec 6) (f3 : BitVec 3) :
    decode48 (wordP48sh f6 f3 0b00100#5 o) = selectSvOpImm f3.toNat (o.toIOps f6) := by
  rw [wordP48sh_eq]
  exact decode48_opImm f3 h

/-- A shift immediate of OP-IMM-32 is selected by f3 and imm[11:6] (rule R95). -/
theorem decode48_shiftImm32 {o : ShOps} (h : o.vitp.pred.fitsVitp = true) (f6 : BitVec 6) (f3 : BitVec 3) :
    decode48 (wordP48sh f6 f3 0b00110#5 o) = selectSvOpImm32 f3.toNat (o.toIOps f6) := by
  rw [wordP48sh_eq]
  exact decode48_opImm32 f3 h

theorem selectSvFi_srcSlot {src : Fmt} {o : FiOps} (h : src ≠ o.fmt) (rm : Rm) :
    selectSvFi 0b01000 (srcSlot src) rm.toBits o = .ok (.svFcvtFmtFmt src rm o) := by
  simp [selectSvFi, srcSlot_fields rfl, h]

end

/-! ## Every instruction but SETVL -/

/-- The word is a 32-bit or a 48-bit one that the fixed encodings decode to the instruction. -/
inductive CodeWord.Decodes (i : Instr) : CodeWord → Prop where
  | w32 {w : BitVec 32} (h : decode32 w = .ok i) : Decodes i (.w32 w)
  | w48 {w : BitVec 48} (h : decode48 w = .ok i) : Decodes i (.w48 w)

/-- The fixed encodings give back every well-formed instruction that has one: its opcode selects the group, its function
fields the instruction. -/
theorem codeWord_decodes (enc : SetvlEncoding) {i : Instr} (hwf : i.wellFormed enc = true)
    (hsetvl : ¬Machine.SetvlInstr i) : (codeWord enc i).Decodes i := by
  cases i with
  | svLb | svLh | svLw | svLd | svLbu | svLhu | svLwu => exact .w48 (decode48_load ..)
  | svFlh | svFlw | svFld | svFlq => exact .w48 (decode48_loadFp ..)
  | svSb | svSh | svSw | svSd => exact .w48 (decode48_store ..)
  | svFsh | svFsw | svFsd | svFsq => exact .w48 (decode48_storeFp ..)
  | svAdd | svSub | svSll | svSlt | svSltu | svXor | svSrl | svSra | svOr | svAnd | svMul | svMulh | svMulhsu | svMulhu
  | svDiv | svDivu | svRem | svRemu => exact .w48 (decode48_op _ _ hwf)
  | svAddw | svSubw | svSllw | svSrlw | svSraw | svMulw | svDivw | svDivuw | svRemw | svRemuw =>
    exact .w48 (decode48_op32 _ _ hwf)
  | svAddi | svSlti | svSltiu | svXori | svOri | svAndi => exact .w48 (decode48_opImm _ hwf)
  | svAddiw => exact .w48 (decode48_opImm32 _ hwf)
  | svSlli | svSrli | svSrai =>
    exact .w48 ((decode48_shiftImm hwf ..).trans
      (by simp [selectSvOpImm, ShOps.toIOps_imm_high, ShOps.ofIOps_toIOps]))
  | svSlliw | svSrliw | svSraiw =>
    exact .w48 ((decode48_shiftImm32 hwf ..).trans
      (by simp [selectSvOpImm32, ShOps.toIOps_imm_high, ShOps.ofIOps_toIOps]))
  | svLui => exact .w48 (decode48_lui hwf)
  | svAuipc => exact .w48 (decode48_auipc hwf)
  | svFaddFmt | svFsubFmt | svFmulFmt | svFdivFmt =>
    exact .w48 ((decode48_fr rfl ..).trans (withRm_toBits ..))
  | svFsgnjFmt | svFsgnjnFmt | svFsgnjxFmt | svFminFmt | svFmaxFmt | svFeqFmt | svFltFmt | svFleFmt =>
    exact .w48 (decode48_fr rfl ..)
  | svFsqrtFmt | svFcvtWFmt | svFcvtWuFmt | svFcvtLFmt | svFcvtLuFmt | svFcvtFmtW | svFcvtFmtWu | svFcvtFmtL
  | svFcvtFmtLu => exact .w48 ((decode48_fi rfl ..).trans (withRm_toBits ..))
  | svFmvXFmt | svFmvFmtX | svFclassFmt => exact .w48 (decode48_fi rfl ..)
  | svFcvtFmtFmt =>
    exact .w48 ((decode48_fi rfl ..).trans (selectSvFi_srcSlot (bne_iff_ne.1 hwf) _))
  | svFmaddFmt => exact .w48 (decode48_fmadd ..)
  | svFmsubFmt => exact .w48 (decode48_fmsub ..)
  | svFnmsubFmt => exact .w48 (decode48_fnmsub ..)
  | svFnmaddFmt => exact .w48 (decode48_fnmadd ..)
  | setvl rd rs1 imm => exact absurd ⟨rd, rs1, imm, rfl⟩ hsetvl
  | lui => exact .w32 (decode32_lui ..)
  | auipc => exact .w32 (decode32_auipc ..)
  | addi | slti | sltiu | xori | ori | andi => exact .w32 (decode32_opImm ..)
  | add | sub | sll | slt | sltu | xor | srl | sra | or | and | mul | mulh | mulhsu | mulhu | div | divu | rem | remu =>
    exact .w32 (decode32_op ..)
  | slli | srli | srai =>
    exact .w32 ((decode32_opImm ..).trans (by simp [decodeOpImm, shiftImm_fields rfl]))
  | addiw => exact .w32 (decode32_opImm32 ..)
  | slliw | srliw | sraiw =>
    exact .w32 ((decode32_opImm32 ..).trans (by simp [decodeOpImm32, shiftImm32_fields rfl]))
  | addw | subw | sllw | srlw | sraw | mulw | divw | divuw | remw | remuw => exact .w32 (decode32_op32 ..)
  | lb | lh | lw | ld | lbu | lhu | lwu => exact .w32 (decode32_load ..)
  | sb | sh | sw | sd => exact .w32 (decode32_store ..)
  | flh | flw | fld | flq => exact .w32 (decode32_loadFp ..)
  | fsh | fsw | fsd | fsq => exact .w32 (decode32_storeFp ..)
  | faddFmt | fsubFmt | fmulFmt | fdivFmt | fsqrtFmt | fcvtWFmt | fcvtWuFmt | fcvtLFmt | fcvtLuFmt | fcvtFmtW
  | fcvtFmtWu | fcvtFmtL | fcvtFmtLu => exact .w32 ((decode32_opFp ..).trans (withRm_toBits ..))
  | fsgnjFmt | fsgnjnFmt | fsgnjxFmt | fminFmt | fmaxFmt | feqFmt | fltFmt | fleFmt | fmvXFmt | fmvFmtX | fclassFmt =>
    exact .w32 (decode32_opFp ..)
  | fcvtFmtFmt => exact .w32 ((decode32_opFp ..).trans (decodeFcvtFmt_srcSlot (bne_iff_ne.1 hwf) ..))
  | fmaddFmt => exact .w32 (decode32_fmadd ..)
  | fmsubFmt => exact .w32 (decode32_fmsub ..)
  | fnmsubFmt => exact .w32 (decode32_fnmsub ..)
  | fnmaddFmt => exact .w32 (decode32_fnmadd ..)
  | jal => exact .w32 (decode32_jal ..)
  | jalr => exact .w32 (decode32_jalr ..)
  | beq | bne | blt | bge | bltu | bgeu => exact .w32 (decode32_branch ..)
  | fence => exact .w32 (decode32_fence ..)
  | fenceI => exact .w32 (decode32_fenceI ..)
  | ecall | ebreak | mret | csrrw | csrrs | csrrc | csrrwi | csrrsi | csrrci =>
    exact .w32 (decode32_system ..)

/-! ## Words as bytes (rules R50, R66) -/

theorem leBytes_length (n v : Nat) : (leBytes n v).length = n := by
  induction n generalizing v with
  | zero => rfl
  | succ n ih => rw [leBytes, List.length_cons, ih]

theorem leBytes_take {m n : Nat} (h : m ≤ n) (v : Nat) : (leBytes n v).take m = leBytes m v := by
  induction m generalizing n v with
  | zero => rfl
  | succ m ih =>
    obtain ⟨n, rfl⟩ : ∃ k, n = k + 1 := ⟨n - 1, by omega⟩
    rw [leBytes, List.take_succ_cons, ih (by omega), leBytes]

theorem leNat_leBytes (n v : Nat) : leNat (leBytes n v) = v % 2 ^ (8 * n) := by
  induction n generalizing v with
  | zero => simp [leBytes, leNat, Nat.mod_one]
  | succ n ih =>
    rw [leBytes, leNat, ih, BitVec.toNat_ofNat, show 8 * (n + 1) = 8 + 8 * n by omega, Nat.pow_add, Nat.mod_mul]

/-- A 32-bit word that decodes announces four bytes: every opcode of an instruction does (rule R66). -/
theorem instrLen_of_decode32 {w : BitVec 32} {i : Instr} (h : decode32 w = .ok i) :
    instrLen (w.toNat % 2 ^ 16) = some 4 := by
  have hop : (w.extractLsb' 0 7).toNat = w.toNat % 128 := by simp
  refine Machine.instrLen_eq_some_iff.2 (.inr (.inl ⟨rfl, ?_⟩))
  unfold decode32 at h
  dsimp only at h
  split at h
  case h_21 => cases h
  all_goals omega

/-- A 48-bit word that decodes announces six bytes (rule R66). -/
theorem instrLen_of_decode48 {w : BitVec 48} {i : Instr} (h : decode48 w = .ok i) :
    instrLen (w.toNat % 2 ^ 16) = some 6 := by
  have hop : (w.extractLsb' 0 7).toNat = w.toNat % 128 := by simp
  refine Machine.instrLen_eq_some_iff.2 (.inr (.inr ⟨rfl, ?_⟩))
  unfold decode48 at h
  split at h
  · cases h
  · omega

theorem CodeWord.Decodes.instrLen {i : Instr} {c : CodeWord} (h : c.Decodes i) :
    instrLen (c.value % 2 ^ 16) = some c.len := by
  cases h with
  | w32 h => exact instrLen_of_decode32 h
  | w48 h => exact instrLen_of_decode48 h

theorem CodeWord.Decodes.value_lt {i : Instr} {c : CodeWord} (h : c.Decodes i) : c.value < 2 ^ (8 * c.len) := by
  cases h with
  | @w32 w _ => exact w.isLt
  | @w48 w _ => exact w.isLt

theorem CodeWord.Decodes.decodeFixed {i : Instr} {c : CodeWord} (h : c.Decodes i) :
    decodeFixed c.len c.value = .ok i := by
  cases h with
  | @w32 w h =>
    show decode32 (BitVec.ofNat 32 w.toNat) = .ok i
    rwa [BitVec.ofNat_toNat, BitVec.setWidth_eq]
  | @w48 w h =>
    show decode48 (BitVec.ofNat 48 w.toNat) = .ok i
    rwa [BitVec.ofNat_toNat, BitVec.setWidth_eq]

/-- A word of the announced length, as bytes before any others, decodes to what the word decodes to (rules R50, R66). -/
theorem decode_leBytes {enc : SetvlEncoding} {n w : Nat} {i : Instr} (hlen : instrLen (w % 2 ^ 16) = some n)
    (hw : w < 2 ^ (8 * n)) (hdecode : decodeWord enc n w = .ok i) (rest : List Byte) :
    decode enc (leBytes n w ++ rest) = .ok (i, rest) := by
  have htwo : 2 ≤ n := by
    rcases Machine.instrLen_eq_some_iff.1 hlen with ⟨rfl, -⟩ | ⟨rfl, -⟩ | ⟨rfl, -⟩ <;> omega
  have hl := leBytes_length n w
  have hparcel : leNat ((leBytes n w ++ rest).take 2) = w % 2 ^ 16 := by
    rw [List.take_append_of_le_length (by omega), leBytes_take htwo, leNat_leBytes]
  have hword : leNat ((leBytes n w ++ rest).take n) = w := by
    rw [List.take_left' hl, leNat_leBytes, Nat.mod_eq_of_lt hw]
  have hrest : (leBytes n w ++ rest).drop n = rest := List.drop_left' hl
  have hlong : n ≤ (leBytes n w ++ rest).length := by rw [List.length_append, hl]; omega
  rw [decode, if_neg (by omega), hparcel, hlen]
  dsimp only
  rw [if_neg (by omega), hword, hdecode, hrest]

/-- Settles O1: the fixed encodings give the instruction back, and the word they decode announces its length. -/
theorem decodeOfEncode : Obligations.DecodeOfEncode := by
  intro enc i rest hwf hsetvl
  have hdecodes := codeWord_decodes enc hwf hsetvl
  refine decode_leBytes hdecodes.instrLen hdecodes.value_lt ?_ rest
  rw [decodeWord, hdecodes.decodeFixed]

end Sys2Proof
end

section
/-! PROOFS. Memory: what a fetch reads (rules R50, R54, R66), the byte order of data accesses and their checks (rules R51
to R58), the unprefixed accesses that are refused (rules R64, R383, R544), and which instructions write (rules R52,
R56). -/

namespace Sys2Proof.Machine

/-! ## Groups of bytes -/

theorem ByteMap.readLe_mod (m : ByteMap) (f : Nat → Nat) {k n : Nat} (h : k ≤ n) :
    ByteMap.readLe m f n % 2 ^ (8 * k) = ByteMap.readLe m f k := by
  induction n with
  | zero =>
    obtain rfl : k = 0 := by omega
    simp [ByteMap.readLe]
  | succ n ih =>
    rcases Nat.lt_or_eq_of_le h with hlt | rfl
    · obtain ⟨c, hc⟩ : 2 ^ (8 * k) ∣ 2 ^ (8 * n) := Nat.pow_dvd_pow 2 (by omega)
      rw [ByteMap.readLe, hc, Nat.mul_left_comm, Nat.add_mul_mod_self_left, ih (by omega)]
    · exact Nat.mod_eq_of_lt (ByteMap.readLe_lt ..)

/-- Byte `k` of a group is the byte at its number, the first the least significant (rules R50, R51). -/
theorem ByteMap.readLe_byte (m : ByteMap) (f : Nat → Nat) {k n : Nat} (h : k < n) :
    ByteMap.readLe m f n / 2 ^ (8 * k) % 256 = (ByteMap.read m (f k)).toNat := by
  have hlow := ByteMap.readLe_lt m f k
  calc ByteMap.readLe m f n / 2 ^ (8 * k) % 256
      = ByteMap.readLe m f n % 2 ^ (8 * (k + 1)) / 2 ^ (8 * k) := by
        rw [Nat.mul_succ, Nat.pow_add, Nat.mod_mul_right_div_self]
    _ = (ByteMap.readLe m f k + (ByteMap.read m (f k)).toNat * 2 ^ (8 * k)) / 2 ^ (8 * k) := by
        rw [ByteMap.readLe_mod m f h, ByteMap.readLe]
    _ = (ByteMap.read m (f k)).toNat := by
        rw [Nat.add_mul_div_right _ _ (Nat.two_pow_pos _), Nat.div_eq_of_lt hlow, Nat.zero_add]

/-! ## The fetch -/

/-- What a fetch that succeeds has found: an even pc, the length announced, and the bytes at the pc. -/
theorem fetch_eq_word {s : State} {len w : Nat} (h : fetch s = .word len w) :
    s.pc.toNat % 2 = 0 ∧ instrLen (parcelAt s 0) = some len ∧
      w = ByteMap.readLe s.mem (s.wrapAddr s.pc.toNat) len := by
  unfold fetch at h
  split at h
  · cases h
  · split at h
    · cases h
    · split at h
      · cases h
      · rename_i hodd _ _ len' hlen
        split at h
        · cases h
        · split at h
          · cases h
          · obtain ⟨rfl, rfl⟩ := Fetched.word.inj h
            exact ⟨by omega, hlen, rfl⟩

/-- Settles O8: the word is a group of bytes, of which the first parcel is the low part. -/
theorem fetchReads : Obligations.FetchReads := by
  intro s len w hfetch
  obtain ⟨heven, hlen, rfl⟩ := fetch_eq_word hfetch
  have hannounced : len = 2 ∨ len = 4 ∨ len = 6 := by
    rcases instrLen_eq_some_iff.1 hlen with ⟨h, -⟩ | ⟨h, -⟩ | ⟨h, -⟩ <;> omega
  have hparcel : ByteMap.readLe s.mem (s.wrapAddr s.pc.toNat) len % 2 ^ 16 = parcelAt s 0 :=
    ByteMap.readLe_mod _ _ (k := 2) (by omega)
  exact ⟨heven, hannounced, ByteMap.readLe_lt .., hparcel ▸ hlen, fun k hk => ByteMap.readLe_byte _ _ hk⟩

/-! ## Data accesses -/

/-- A byte of a value read is the byte of memory (rule R51). -/
theorem State.memGet_byte (s : State) (a : Nat) {w m : Nat} (hw : 8 * (w / 8) = w) (hm : m < w / 8) :
    (s.memGet a w).extractLsb' (8 * m) 8 = s.byteAt (s.wrapAddr a m) := by
  have hlt := ByteMap.readLe_lt s.mem (s.wrapAddr a) (w / 8)
  rw [hw] at hlt
  apply BitVec.eq_of_toNat_eq
  rw [State.memGet, BitVec.extractLsb'_toNat, BitVec.toNat_ofNat, Nat.mod_eq_of_lt hlt, Nat.shiftRight_eq_div_pow]
  exact ByteMap.readLe_byte _ _ hm

/-- Settles O13, by the bytes of a group read and of a group written. -/
theorem memoryLittleEndian : Obligations.MemoryLittleEndian := by
  intro s a w v hw hle
  obtain ⟨hbytes, -, -, hother⟩ := s.memPut_stores a w v (by omega)
  exact ⟨fun m hm => s.memGet_byte a (by omega) hm, hbytes, hother, s.memGet_memPut_same a w v (by omega) (by omega)⟩

/-! ## The checks of an access -/

/-- Whether a region admits the kind of access (rule R58). -/
def Region.allows (r : Region) : Access → Bool
  | .load => r.load
  | .store => r.store
  | .fetch => r.fetch

theorem Region.admits_iff (r : Region) (a : Nat) (k : Access) :
    Region.admits r a k = true ↔ r.base ≤ a ∧ a < r.base + r.size ∧ Region.allows r k = true := by
  cases k <;> simp [Region.admits, Region.allows, and_assoc]

theorem State.admits_iff (s : State) (a n : Nat) (k : Access) : s.admits a n k = true ↔
    ∀ m < n, ∃ r ∈ s.cfg.backed, Region.admits r (s.wrapAddr a m) k = true := by
  simp [State.admits]

theorem State.checkAccess_of_misaligned {s : State} {a n : Nat} (htrap : s.cfg.misaligned = .trap) (ha : a % n ≠ 0)
    (k : Access) : s.checkAccess a n k = some k.misaligned :=
  if_pos ⟨htrap, ha⟩

/-- An access that alignment does not stop is decided by `mem_admit` (rules R55, R58). -/
theorem State.checkAccess_of_aligned {s : State} {a n : Nat} (h : s.cfg.misaligned = .support ∨ a % n = 0)
    (k : Access) : s.checkAccess a n k = if s.admits a n k then none else some k.accessFault := by
  refine if_neg ?_
  rintro ⟨htrap, ha⟩
  rcases h with h | h
  · rw [h] at htrap; cases htrap
  · exact ha h

theorem State.checkAccess_of_backed {s : State} {a n : Nat} {k : Access}
    (h : s.cfg.misaligned = .support ∨ a % n = 0)
    (hbacked : ∀ m < n, ∃ r ∈ s.cfg.backed, r.base ≤ s.wrapAddr a m ∧ s.wrapAddr a m < r.base + r.size ∧
      Region.allows r k = true) : s.checkAccess a n k = none := by
  rw [State.checkAccess_of_aligned h]
  refine if_pos ((s.admits_iff a n k).2 fun m hm => ?_)
  obtain ⟨r, hr, hadmits⟩ := hbacked m hm
  exact ⟨r, hr, (Region.admits_iff ..).2 hadmits⟩

theorem State.checkAccess_of_unbacked {s : State} {a n : Nat} {k : Access}
    (h : s.cfg.misaligned = .support ∨ a % n = 0) {m : Nat} (hm : m < n)
    (hunbacked : ∀ r ∈ s.cfg.backed, r.base ≤ s.wrapAddr a m → s.wrapAddr a m < r.base + r.size →
      Region.allows r k = false) : s.checkAccess a n k = some k.accessFault := by
  rw [State.checkAccess_of_aligned h]
  refine if_neg fun hadmits => ?_
  obtain ⟨r, hr, hradmits⟩ := (s.admits_iff a n k).1 hadmits m hm
  obtain ⟨hlow, hhigh, hallows⟩ := (Region.admits_iff ..).1 hradmits
  rw [hunbacked r hr hlow hhigh] at hallows
  cases hallows

/-- Settles O14: alignment is looked at first, then every byte. -/
theorem accessChecks : Obligations.AccessChecks := by
  intro s a n k
  refine ⟨fun htrap ha => State.checkAccess_of_misaligned htrap ha k, fun h => ⟨fun hbacked => ?_, ?_⟩⟩
  · refine State.checkAccess_of_backed h fun m hm => ?_
    cases k <;> exact hbacked m hm
  · intro m hm hunbacked
    refine State.checkAccess_of_unbacked h hm ?_
    cases k <;> exact hunbacked

/-! ## Unprefixed accesses that are refused -/

theorem baseAddr_eq_ea (s : State) (rs1 : BitVec 5) (imm : BitVec 12) :
    baseAddr s.cfg.xbits rs1 imm s = s.ea rs1 imm := rfl

theorem legally_of_legal {ok : Bool} (h : ok = true) (i : Instr) (s : State) (k : Out) : legally ok i s k = k :=
  if_pos h

section
variable {s : State} {rs1 : BitVec 5} {imm : BitVec 12}

/-- The outcome is that of a generic load of so many bytes (rule R544). -/
inductive LoadsBase (s : State) (rs1 : BitVec 5) (imm : BitVec 12) : Out → Nat → Prop where
  | intro (w : Nat) (k : BitVec w → State) : LoadsBase s rs1 imm (baseLoad w rs1 imm s k) (w / 8)

/-- The outcome is that of a generic store of so many bytes (rule R544). -/
inductive StoresBase (s : State) (rs1 : BitVec 5) (imm : BitVec 12) : Out → Nat → Prop where
  | intro (w : Nat) (v : BitVec w) : StoresBase s rs1 imm (baseStore w rs1 imm v s) (w / 8)

variable {o : Out} {n : Nat}

theorem loadsBase_loadSigned (w : Nat) (rd rs1 : BitVec 5) (imm : BitVec 12) (s : State) :
    LoadsBase s rs1 imm (loadSigned w rd rs1 imm s) (w / 8) :=
  .intro ..

theorem loadsBase_loadUnsigned (w : Nat) (rd rs1 : BitVec 5) (imm : BitVec 12) (s : State) :
    LoadsBase s rs1 imm (loadUnsigned w rd rs1 imm s) (w / 8) :=
  .intro ..

theorem loadsBase_loadF (w : Nat) (rd rs1 : BitVec 5) (imm : BitVec 12) (s : State) :
    LoadsBase s rs1 imm (loadF w rd rs1 imm s) (w / 8) :=
  .intro ..

theorem LoadsBase.refused (h : LoadsBase s rs1 imm o n) {e : Exc}
    (hrefused : s.checkAccess (s.ea rs1 imm) n .load = some e) : Raises o s e (s.ea rs1 imm) := by
  cases h
  simp only [baseLoad, baseAddr_eq_ea, hrefused]
  exact raise_raises ..

theorem StoresBase.refused (h : StoresBase s rs1 imm o n) {e : Exc}
    (hrefused : s.checkAccess (s.ea rs1 imm) n .store = some e) : Raises o s e (s.ea rs1 imm) := by
  cases h
  simp only [baseStore, baseAddr_eq_ea, hrefused]
  exact raise_raises ..

/-- A store that is admitted but hits the program text has no meaning (rule R64). -/
theorem StoresBase.hitsText (h : StoresBase s rs1 imm o n)
    (hpass : s.checkAccess (s.ea rs1 imm) n .store = none) (htext : s.hitsText (s.ea rs1 imm) n = true) :
    o = .fault (.storeToText (s.ea rs1 imm)) := by
  cases h
  simp only [baseStore, baseAddr_eq_ea, hpass, htext, if_true]

theorem LoadsBase.legally (h : LoadsBase s rs1 imm o n) {ok : Bool} (hok : ok = true) (i : Instr) :
    LoadsBase s rs1 imm (legally ok i s o) n :=
  (legally_of_legal hok i s o).symm ▸ h

theorem StoresBase.legally (h : StoresBase s rs1 imm o n) {ok : Bool} (hok : ok = true) (i : Instr) :
    StoresBase s rs1 imm (legally ok i s o) n :=
  (legally_of_legal hok i s o).symm ▸ h

end

/-- Settles O26: the instructions are the generic load and store, which check before they act. -/
theorem refusedAccesses : Obligations.RefusedAccesses := by
  intro r rs1 imm s a e ha
  subst ha
  refine ⟨fun p hp hrefused => ?_, fun hxlen p hp hrefused => ?_, fun p hp hfits hrefused => ?_,
    fun p hp hsd hfsh hfsw hfsd hfsq => ?_⟩ <;>
    simp only [List.mem_cons, List.not_mem_nil, or_false] at hp
  · refine LoadsBase.refused (n := p.2) ?_ hrefused
    rcases hp with rfl | rfl | rfl | rfl | rfl
    · exact loadsBase_loadSigned ..
    · exact loadsBase_loadUnsigned ..
    · exact loadsBase_loadSigned ..
    · exact loadsBase_loadUnsigned ..
    · exact loadsBase_loadSigned ..
  · refine LoadsBase.refused (n := p.2) ?_ hrefused
    rcases hp with rfl | rfl <;> exact (loadsBase_loadUnsigned ..).legally (beq_iff_eq.2 hxlen) _
  · refine LoadsBase.refused (n := p.2) ?_ hrefused
    rcases hp with rfl | rfl | rfl | rfl <;> exact (loadsBase_loadF ..).legally (decide_eq_true hfits) _
  · have hstore : StoresBase s rs1 imm (exec p.1 s) p.2 := by
      rcases hp with rfl | rfl | rfl | rfl | rfl | rfl | rfl | rfl
      · exact .intro ..
      · exact .intro ..
      · exact .intro ..
      · exact StoresBase.legally (.intro ..) (beq_iff_eq.2 (hsd rfl)) _
      · exact StoresBase.legally (.intro ..) (decide_eq_true (hfsh rfl)) _
      · exact StoresBase.legally (.intro ..) (decide_eq_true (hfsw rfl)) _
      · exact StoresBase.legally (.intro ..) (decide_eq_true (hfsd rfl)) _
      · exact StoresBase.legally (.intro ..) (decide_eq_true (hfsq rfl)) _
    exact ⟨hstore.refused, hstore.hitsText⟩

/-! ## Only stores write -/

/-- Every CSR instruction is one CSR access (rules R369 to R374). -/
theorem exec_csrInstr {i : Instr} (h : CsrInstr i) (s : State) : ∃ rd a write, exec i s = csrAccess rd a write s := by
  obtain ⟨rd, r, a, rfl | rfl | rfl | rfl | rfl | rfl⟩ := h
  · exact ⟨rd, a, some fun w _ => s.getX w r.toNat, rfl⟩
  · exact ⟨rd, a, _, rfl⟩
  · exact ⟨rd, a, _, rfl⟩
  · exact ⟨rd, a, some fun w _ => BitVec.ofNat w r.toNat, rfl⟩
  · exact ⟨rd, a, _, rfl⟩
  · exact ⟨rd, a, _, rfl⟩

/-- A CSR access that answers a next state has written at most the CSR and the register (rule R368). -/
theorem csrAccess_next {rd : BitVec 5} {a : BitVec 12} {write : Option ((w : Nat) → BitVec w → BitVec w)} {s t : State}
    (h : csrAccess rd a write s = .next t) :
    ∃ u v, (u = s ∨ ∃ c n, u = s.csrPut c n) ∧ t = (u.putX s.cfg.xbits rd.toNat v).advance 4 := by
  unfold csrAccess at h
  dsimp only at h
  split at h
  · cases h
  · split at h
    · exact ⟨s, _, .inl rfl, (Host.Outcome.next.inj h).symm⟩
    · split at h
      · exact ⟨_, _, .inr ⟨_, _, rfl⟩, (Host.Outcome.next.inj h).symm⟩
      · cases h

@[simp] theorem State.csrPut_mem (s : State) (c : Csr) (v : Nat) : (s.csrPut c v).mem = s.mem := by cases c <;> rfl

/-- The same memory. -/
def SameMem (s t : State) : Prop := t.mem = s.mem

theorem updateClosed_sameMem : UpdateClosed SameMem where
  refl _ := rfl
  trans h h' := h'.trans h
  setPc _ _ := rfl
  elemPut _ _ _ _ _ _ := State.elemPut_mem ..
  orFlags _ _ := rfl
  setVl _ _ := rfl
  setVstart _ _ := rfl
  setStatus _ _ _ := rfl
  traps h := by
    rw [Traps] at h
    rw [SameMem, h]

/-- Settles O59: every update of the state but a memory write keeps memory, and a CSR access makes none. -/
theorem onlyStoresWriteMemory : Obligations.OnlyStoresWriteMemory := by
  intro i s t hstore hexec
  by_cases hcsr : CsrInstr i
  · obtain ⟨rd, a, write, hi⟩ := exec_csrInstr hcsr s
    obtain ⟨u, v, rfl | ⟨c, n, rfl⟩, rfl⟩ := csrAccess_next (hi.symm.trans hexec) <;> simp
  · exact (updateClosed_sameMem.nextRel_exec s hcsr fun h => absurd h hstore).next t hexec

end Sys2Proof.Machine
end

section
/-! PROOFS. Where a prefixed load or store stops (rules R144, R149, R164 to R166, R381): the check of a sub-vector finds
its first refused element, or, where none is refused, its first store to the program text; the loop then stops at the
first index whose check finds one, in the state that the indices below it left. -/

namespace Sys2Proof.Machine

/-! ## The first stop of a sub-vector -/

/-- The first element that stops is the one found (rule R385). -/
theorem firstStop_eq_some {f : Nat → Option Stop} {n lo j : Nat} {st : Stop} (hj : j < n)
    (hlower : ∀ q < j, f (lo + q) = none) (hat : f (lo + j) = some st) : firstStop f n lo = some st := by
  induction j generalizing n lo with
  | zero =>
    obtain ⟨n, rfl⟩ : ∃ m, n = m + 1 := ⟨n - 1, by omega⟩
    rw [firstStop, show f lo = some st from hat]
  | succ j ih =>
    obtain ⟨n, rfl⟩ : ∃ m, n = m + 1 := ⟨n - 1, by omega⟩
    rw [firstStop, show f lo = none from hlower 0 (by omega)]
    refine ih (by omega) (fun q hq => ?_) ?_
    · rw [Nat.add_assoc, Nat.add_comm 1 q]
      exact hlower (q + 1) (by omega)
    · rw [Nat.add_assoc, Nat.add_comm 1 j]
      exact hat

theorem addrStop_eq_none {o : MemOps} {s u : State} {i : Nat} (h : AddrFits o s i) (hc : u.cfg = s.cfg) :
    addrStop o s u i = none := by
  rw [addrStop, hc]
  exact h.none hc

/-- What a store's run leaves alone of what its checks and its end read. -/
theorem OnlyMemOf.keeps {s u : State} (h : OnlyMemOf s u) : u.cfg = s.cfg ∧ u.xregs = s.xregs ∧ u.vstart = s.vstart := by
  rw [OnlyMemOf] at h
  rw [h]
  exact ⟨rfl, rfl, rfl⟩

/-- The stop of an element at the address `a`, where the check of its access finds `c` (rules R58, R166). -/
def accessStop (c : Option Exc) (a : Nat) : Option Stop := c.map fun e => .exception e a

section
variable {o : MemOps} {s u : State} {i : Nat} (hfits : AddrFits o s i) (w j : Nat)
include hfits

/-- An element of a load whose address fits is stopped by its access alone (rule R164). -/
theorem loadStop_of_fits (hc : u.cfg = s.cfg) : loadStop o s u w o.vtp.svlen.count i j =
    accessStop (s.checkAccess (elemAddr w o s u i j) (w / 8) .load) (elemAddr w o s u i j) := by
  obtain ⟨a, ha, hstop⟩ := loadStop_eq o s u w o.vtp.svlen.count i j
  rw [hc] at ha
  rw [hstop, addrStop_eq_none hfits hc, State.checkAccess_congr _ _ hc, ha]
  rfl

/-- An element of a store whose address and data fit is stopped by its access alone (rule R165). -/
theorem storeStop_of_fits (hu : OnlyMemOf s u) {src : Opd} (hsrc : src.overrun u w o.vtp.svlen.count i j = none) :
    storeStop src o s u w o.vtp.svlen.count i j =
      accessStop (s.checkAccess (elemAddr w o s s i j) (w / 8) .store) (elemAddr w o s s i j) := by
  obtain ⟨hc, hx, -⟩ := hu.keeps
  obtain ⟨a, ha, hstop⟩ := storeStop_eq src o s u w o.vtp.svlen.count i j
  rw [hc, effAddr_congr _ o hc hx] at ha
  rw [hstop, addrStop_eq_none hfits hc, hsrc, State.checkAccess_congr _ _ hc, ha]
  rfl

end

/-- An element of a store is a store to the text where its address hits it (rule R64). -/
theorem textStop_eq {o : MemOps} {s u : State} (hu : OnlyMemOf s u) (w i j : Nat) :
    textStop o s u w o.vtp.svlen.count i j =
      if s.hitsText (elemAddr w o s s i j) (w / 8) then some (.modelFault (.storeToText (elemAddr w o s s i j)))
      else none := by
  obtain ⟨hc, hx, -⟩ := hu.keeps
  rw [textStop, hc, effAddr_congr _ o hc hx, State.hitsText_congr _ _ hc]
  rfl

/-! ## The check of the sub-vector that stops -/

section
variable {w : Nat} {o : MemOps} {s u : State} {i j : Nat} (hfits : AddrFits o s i)
include hfits

theorem loadOp_check_of_refused (hc : u.cfg = s.cfg) {e : Exc}
    (h : RefusedAt s .load w (elemAddr w o s u i) o.vtp.svlen.count j e) (dst : Opd) :
    (loadOp dst w o s).check u i = some (.exception e (elemAddr w o s u i j)) := by
  obtain ⟨hj, hlower, hat⟩ := h
  have hfirst : firstStop (loadStop o s u w o.vtp.svlen.count i) o.vtp.svlen.count 0 =
      some (.exception e (elemAddr w o s u i j)) := by
    refine firstStop_eq_some hj (fun q hq => ?_) ?_
    · rw [Nat.zero_add, loadStop_of_fits hfits w q hc, hlower q hq]
      rfl
    · rw [Nat.zero_add, loadStop_of_fits hfits w j hc, hat]
      rfl
  exact congrArg (Stop.orElse · _) hfirst

variable (hu : OnlyMemOf s u) {src : Opd}
  (hsrc : ∀ q < o.vtp.svlen.count, src.overrun u w o.vtp.svlen.count i q = none)
include hu hsrc

theorem storeOp_check_of_refused {e : Exc}
    (h : RefusedAt s .store w (elemAddr w o s s i) o.vtp.svlen.count j e) :
    (storeOp src w o s).check u i = some (.exception e (elemAddr w o s s i j)) := by
  obtain ⟨hj, hlower, hat⟩ := h
  have hfirst : firstStop (storeStop src o s u w o.vtp.svlen.count i) o.vtp.svlen.count 0 =
      some (.exception e (elemAddr w o s s i j)) := by
    refine firstStop_eq_some hj (fun q hq => ?_) ?_
    · rw [Nat.zero_add, storeStop_of_fits hfits w q hu (hsrc q (by omega)), hlower q hq]
      rfl
    · rw [Nat.zero_add, storeStop_of_fits hfits w j hu (hsrc j hj), hat]
      rfl
  exact congrArg (Stop.orElse · _) hfirst

/-- The text is looked at after every access of the sub-vector has passed (rules R64, R165). -/
theorem storeOp_check_of_text (hj : j < o.vtp.svlen.count)
    (hpass : ∀ q < o.vtp.svlen.count, s.checkAccess (elemAddr w o s s i q) (w / 8) .store = none)
    (hlower : ∀ q < j, s.hitsText (elemAddr w o s s i q) (w / 8) = false)
    (hat : s.hitsText (elemAddr w o s s i j) (w / 8) = true) :
    (storeOp src w o s).check u i = some (.modelFault (.storeToText (elemAddr w o s s i j))) := by
  have haccess : firstStop (storeStop src o s u w o.vtp.svlen.count i) o.vtp.svlen.count 0 = none := by
    refine firstStop_none.2 fun q hq => ?_
    rw [Nat.zero_add, storeStop_of_fits hfits w q hu (hsrc q hq), hpass q hq]
    rfl
  have htext : firstStop (textStop o s u w o.vtp.svlen.count i) o.vtp.svlen.count 0 =
      some (.modelFault (.storeToText (elemAddr w o s s i j))) := by
    refine firstStop_eq_some hj (fun q hq => ?_) ?_
    · rw [Nat.zero_add, textStop_eq hu, hlower q hq]
      rfl
    · rw [Nat.zero_add, textStop_eq hu, hat]
      rfl
  calc (storeOp src w o s).check u i
      = Stop.orElse (firstStop (storeStop src o s u w o.vtp.svlen.count i) o.vtp.svlen.count 0)
          (firstStop (textStop o s u w o.vtp.svlen.count i) o.vtp.svlen.count 0) := rfl
    _ = _ := by rw [haccess, htext]; rfl

end

/-! ## The instruction that stops -/

/-- An exception at index number `k` leaves the failing index in Vstart, where the instruction is a vector one (rules R144,
R149). -/
theorem finish_exception {isvec : Bool} {s u : State} (hv : u.vstart = s.vstart) (k : Nat) (e : Exc) (info : Nat) :
    finish isvec (.stopped (firstIndex isvec s + k) (.exception e info) u) =
      raise e info { u with vstart := if isvec then s.vstart + k else s.vstart } := by
  cases isvec
  · rw [if_neg Bool.false_ne_true, ← hv]
    rfl
  · rfl

theorem loadBefore_vstart (file : RegFile) (w : Nat) (o : MemOps) (s : State) (k : Nat) :
    (loadBefore file w o s k).vstart = s.vstart :=
  stateBefore_keeps (P := fun u => u.vstart = s.vstart) _ _ _ s rfl (fun u i hu => by
    obtain ⟨-, -, hv⟩ := loadOp_keeps file w o s u i
    exact hv.trans hu) k

/-- The state before index number `k` of a prefixed store whose lower indices pass their checks. -/
def storeBefore (file : RegFile) (w : Nat) (o : MemOps) (s : State) (k : Nat) : State :=
  stateBefore (enabled o.vtp.pred s) (storeOp (dataOpd file o s) w o s) (firstIndex (memIsVec s) s) s k

section
variable {file : RegFile} {w : Nat} {o : MemOps} {s : State} {k j : Nat} (hk : k < indexCount (memIsVec s) s)
  (he : enabled o.vtp.pred s (firstIndex (memIsVec s) s + k) = true)
  (hdata : OpdFits (dataOpd file o s) w o.vtp.svlen.count (memIsVec s) o.vtp.pred s)
include hk he hdata

/-- A prefixed store whose first stopping index is number `k` ends there (rule R144). -/
theorem svStore_stopped (hlower : ∀ q < k, StoreReady w o s q) {st : Stop}
    (hat : (storeOp (dataOpd file o s) w o s).check (storeBefore file w o s k) (firstIndex (memIsVec s) s + k) =
      some st) : svStore file w o s = finish (memIsVec s)
        (.stopped (firstIndex (memIsVec s) s + k) st (storeBefore file w o s k)) :=
  execPrefixed_stopped _ _ _ s k st hk
    (fun q hq heq => storeOp_check file w o s q (by omega) heq (hlower q hq) hdata (storeBefore_onlyMem ..)) he hat

variable (hfits : AddrFits o s (firstIndex (memIsVec s) s + k))
include hfits

/-- A prefixed load whose first refused element lies at index number `k`. -/
theorem svLoad_traps {e : Exc} (hlower : ∀ q < k, LoadReady file w o s q)
    (hrefused : RefusedAt s .load w (elemAddr w o s (loadBefore file w o s k) (firstIndex (memIsVec s) s + k))
      o.vtp.svlen.count j e) :
    ∃ u, Chain (memIsVec s) o.vtp.pred (LoadsElems file w o s) k s u ∧
      Raises (svLoad file w o s) { u with vstart := if memIsVec s then s.vstart + k else s.vstart } e
        (elemAddr w o s (loadBefore file w o s k) (firstIndex (memIsVec s) s + k) j) := by
  have hstop : svLoad file w o s = finish (memIsVec s) (.stopped (firstIndex (memIsVec s) s + k)
      (.exception e (elemAddr w o s (loadBefore file w o s k) (firstIndex (memIsVec s) s + k) j))
      (loadBefore file w o s k)) :=
    execPrefixed_stopped _ _ _ s k _ hk
      (fun q hq heq => loadOp_check file w o s q (by omega) heq (hlower q hq) hdata) he
      (loadOp_check_of_refused hfits (loadBefore_cfg ..) hrefused (dataOpd file o s))
  refine ⟨loadBefore file w o s k, ?_, ?_⟩
  · exact stateBefore_chain _ _ _ _ s k fun q _ _ u hu => loadOp_written file w o s u (hu ▸ loadBefore_cfg ..) _
  · rw [hstop, finish_exception (loadBefore_vstart ..)]
    exact raise_raises ..

/-- A prefixed store whose first refused element lies at index number `k`. -/
theorem svStore_traps (hw : w ≤ 128) {e : Exc} (hlower : ∀ q < k, StoreReady w o s q)
    (hrefused : RefusedAt s .store w (elemAddr w o s s (firstIndex (memIsVec s) s + k)) o.vtp.svlen.count j e) :
    ∃ u, Chain (memIsVec s) o.vtp.pred (StoresElems file w o s) k s u ∧
      Raises (svStore file w o s) { u with vstart := if memIsVec s then s.vstart + k else s.vstart } e
        (elemAddr w o s s (firstIndex (memIsVec s) s + k) j) := by
  have hmem : OnlyMemOf s (storeBefore file w o s k) := storeBefore_onlyMem ..
  obtain ⟨hc, -, hv⟩ := hmem.keeps
  have hstop := svStore_stopped hk he hdata hlower
    (storeOp_check_of_refused hfits hmem (fun q hq => hdata.overrun_none hk he hc hq) hrefused)
  refine ⟨storeBefore file w o s k, ?_, ?_⟩
  · exact stateBefore_chain _ _ _ _ s k fun q _ _ u hu => storeOp_stored file w o s u (hu ▸ storeBefore_onlyMem ..) hw _
  · rw [hstop, finish_exception hv]
    exact raise_raises ..

/-- A prefixed store whose accesses at index number `k` pass, but that hits the text there. -/
theorem svStore_hitsText (hlower : ∀ q < k, StoreReady w o s q)
    (hpass : ∀ q < o.vtp.svlen.count,
      s.checkAccess (elemAddr w o s s (firstIndex (memIsVec s) s + k) q) (w / 8) .store = none)
    (htext : HitsTextAt w o s k j) :
    svStore file w o s = .fault (.storeToText (elemAddr w o s s (firstIndex (memIsVec s) s + k) j)) := by
  obtain ⟨hj, hmiss, hhit⟩ := htext
  have hmem : OnlyMemOf s (storeBefore file w o s k) := storeBefore_onlyMem ..
  obtain ⟨hc, -, -⟩ := hmem.keeps
  rw [svStore_stopped hk he hdata hlower
    (storeOp_check_of_text hfits hmem (fun q hq => hdata.overrun_none hk he hc hq) hj hpass hmiss hhit)]
  rfl

end

theorem svStoreForms_width : ∀ f ∈ svStoreForms, f.w ≤ 128 := by
  simp [svStoreForms]

/-- Settles O53: each form is the generic load or store, which stops at the first index whose check finds something. -/
theorem svTrapAtIndex : Obligations.SvTrapAtIndex := by
  intro o s k j e hk he hfits
  refine ⟨fun f hf hhere hlower hdata hrefused => ?_, fun f hf hhere hlower hdata hrefused => ?_,
    fun f hf hhere hlower hdata hpass htext => ?_⟩
  · rw [exec_svLoadForm hf o hhere]
    exact svLoad_traps hk he hdata hfits hlower hrefused
  · rw [exec_svStoreForm hf o hhere]
    exact svStore_traps hk he hdata hfits (svStoreForms_width f hf) hlower hrefused
  · rw [exec_svStoreForm hf o hhere]
    exact svStore_hitsText hk he hdata hfits hlower hpass htext

end Sys2Proof.Machine
end

section
/-! PROOFS. The fields of a prefixed instruction (rules R83, R85, R86, R88, R89, R92, R93): each code table said once, by
code, then the words that the spec writes out, and what is no instruction (rules R99, R100, R386, R596). -/

namespace Sys2Proof

open Machine

/-! ## Register numbers (rule R83) -/

theorem regNum_scalar (r : BitVec 6) : regNum r false = r.toNat := rfl

theorem regNum_vector (r : BitVec 6) :
    BitVec.ofNat 7 (regNum r true) = r.extractLsb' 0 1 ++ (r.extractLsb' 1 5 ++ 0#1) := by
  revert r
  decide

theorem regNum_vector_lt (r : BitVec 6) : regNum r true < 128 := by
  have hr := r.isLt
  simp only [regNum, if_true]
  omega

/-! ## The code tables -/

theorem SvLen.count_ofBits (c : BitVec 2) : (SvLen.ofBits c).count = if c = 0#2 then 4 else c.toNat := by
  revert c
  decide

/-- The pred code (rule R88): reserved, unpredicated, or a register and the value its bit must have. -/
theorem Pred.ofBits?_cases (c : BitVec 3) :
    (c = 0b001#3 ∧ Pred.ofBits? c = none) ∨ (c = 0b000#3 ∧ Pred.ofBits? c = some .always) ∨
      (c ≠ 0b001#3 ∧ c ≠ 0b000#3 ∧ ∃ r ∈ [PredReg.x9, .x10, .x11],
        r.num = 8 + (c.extractLsb' 1 2).toNat ∧ Pred.ofBits? c = some (.on r (c.getLsbD 0))) := by
  revert c
  decide

theorem Pred.ofBits?_eq_none_iff (c : BitVec 3) : Pred.ofBits? c = none ↔ c = 0b001#3 := by
  rcases Pred.ofBits?_cases c with ⟨rfl, hp⟩ | ⟨rfl, hp⟩ | ⟨hc, -, r, -, -, hp⟩ <;> simp [*]

/-- When an index is enabled, by the pred code (rules R37, R88, R139). -/
theorem enabled_ofBits? {c : BitVec 3} {p : Pred} (h : Pred.ofBits? c = some p) (s : State) (i : Nat) :
    enabled p s i = true ↔ c = 0b000#3 ∨
      (s.getX s.cfg.xbits (8 + (c.extractLsb' 1 2).toNat)).getLsbD i = c.getLsbD 0 := by
  rcases Pred.ofBits?_cases c with ⟨-, hp⟩ | ⟨hc, hp⟩ | ⟨-, hc, r, -, hnum, hp⟩ <;> rw [hp] at h
  · cases h
  · cases h
    exact iff_of_true rfl (.inl hc)
  · cases h
    rw [enabled, hnum, beq_iff_eq, or_iff_right hc]

/-- The sixteen load/store kinds, by code (rule R85). -/
theorem Lsk.ofBits_cases (b : BitVec 4) :
    (b = 0b0000#4 ∧ Lsk.ofBits b = .c) ∨ (b = 0b0001#4 ∧ Lsk.ofBits b = .x) ∨
      (∃ k : Fin 6, b.toNat = k.val + 2 ∧ Lsk.ofBits b = .si k) ∨
      ∃ k : Fin 8, b.toNat = k.val + 8 ∧ Lsk.ofBits b = .s k := by
  revert b
  decide

theorem IType.width_ofBits (b : BitVec 2) (xlen : Nat) : (IType.ofBits b).width xlen =
    if b = 0#2 then 8 else if b = 1#2 then 16 else if b = 2#2 then 32 else xlen := by
  have hb : b = 0#2 ∨ b = 1#2 ∨ b = 2#2 ∨ b = 3#2 := by
    revert b
    decide
  rcases hb with rfl | rfl | rfl | rfl <;> rfl

theorem Vtp.ofBits?_eq_none_iff (b : BitVec 5) : Vtp.ofBits? b = none ↔ b.extractLsb' 2 3 = 0b001#3 := by
  rw [Vtp.ofBits?, Option.map_eq_none_iff, Pred.ofBits?_eq_none_iff]

theorem Vtp.fields_of_ofBits? {b : BitVec 5} {v : Vtp} (h : Vtp.ofBits? b = some v) :
    Pred.ofBits? (b.extractLsb' 2 3) = some v.pred ∧ v.svlen = SvLen.ofBits (b.extractLsb' 0 2) := by
  obtain ⟨p, hp, rfl⟩ := Option.map_eq_some_iff.1 h
  exact ⟨hp, rfl⟩

theorem Vitp.ofBits?_eq_none_iff (b : BitVec 6) : Vitp.ofBits? b = none ↔ b.extractLsb' 2 2 = 0b01#2 := by
  have hpred : ∀ q : BitVec 2, 0b0#1 ++ q = 0b001#3 ↔ q = 0b01#2 := by decide
  rw [Vitp.ofBits?, Option.map_eq_none_iff, Pred.ofBits?_eq_none_iff]
  exact hpred _

theorem Vitp.fields_of_ofBits? {b : BitVec 6} {v : Vitp} (h : Vitp.ofBits? b = some v) :
    Pred.ofBits? (0#1 ++ b.extractLsb' 2 2) = some v.pred ∧ v.svlen = SvLen.ofBits (b.extractLsb' 0 2) ∧
      v.itype = IType.ofBits (b.extractLsb' 4 2) := by
  obtain ⟨p, hp, rfl⟩ := Option.map_eq_some_iff.1 h
  exact ⟨hp, rfl, rfl⟩

/-- Settles O15, field by field. -/
theorem subVectorFields : Obligations.SubVectorFields := by
  refine ⟨fun r => ⟨regNum_scalar r, regNum_vector r, regNum_vector_lt r⟩, SvLen.count_ofBits,
    fun c => ⟨Pred.ofBits?_eq_none_iff c, fun p s i hp => enabled_ofBits? hp s i⟩,
    fun b => ⟨Vtp.ofBits?_eq_none_iff b, fun v => Vtp.fields_of_ofBits?⟩,
    fun b => ⟨Vitp.ofBits?_eq_none_iff b, fun v hv => ?_⟩⟩
  obtain ⟨hpred, hsvlen, hitype⟩ := Vitp.fields_of_ofBits? hv
  exact ⟨hpred, hsvlen, fun xlen => by rw [hitype, IType.width_ofBits]⟩

/-! ## Words that the spec writes out, and words that are no instruction -/

/-- A word whose bytes begin with the encoding of a well-formed instruction decodes to it. -/
theorem decodeTableWord_of_encode {nbits w : Nat} {i : Instr} (rest : List Byte)
    (hbytes : leBytes 6 (w % 2 ^ nbits) = encode SetvlEncoding.custom0 i ++ rest)
    (hwf : i.wellFormed SetvlEncoding.custom0 = true) (hsetvl : ¬SetvlInstr i) : decodeTableWord nbits w = some i := by
  rw [decodeTableWord, hbytes, decodeOfEncode _ i rest hwf hsetvl]

/-- Settles O3: each word is the encoding of its instruction, a 32-bit one with two more bytes of zero. -/
theorem givenWordsDecode : Obligations.GivenWordsDecode := by
  refine ⟨?addi, ?lb, ?sw, ?add, ?slli, ?lui, ?faddFmt, ?feqFmt, ?fmaddFmt, ?add32, ?fence, ?mret⟩
  case add32 | fence | mret => exact decodeTableWord_of_encode [0#8, 0#8] (by decide) rfl (by simp [SetvlInstr])
  all_goals exact decodeTableWord_of_encode [] (by decide) rfl (by simp [SetvlInstr])

/-- A step over a fetched word that is no instruction. -/
theorem step_of_undecoded {s : State} {len w : Nat} {e : DecodeError} (hfetch : fetch s = .word len w)
    (hdecode : decodeWord s.cfg.setvlEnc len w = .error e) : step s = notAnInstruction e w s := by
  unfold step
  rw [hfetch]
  dsimp only
  rw [hdecode]

/-- Settles O10: only a 16-bit parcel where HAS_C holds is refused. -/
theorem undecodedIsIllegal : Obligations.UndecodedIsIllegal := by
  intro s len w e hfetch hdecode hrvc
  have hraise : ¬(e = .compressed ∧ s.cfg.hasC = true) := fun ⟨he, hc⟩ =>
    hrvc.elim (fun hne => hne he) fun hno => Bool.false_ne_true (hno.symm.trans hc)
  rw [step_of_undecoded hfetch hdecode, notAnInstruction, if_neg hraise]
  exact raise_raises ..

end Sys2Proof
end

section
/-! PROOFS. Prefixed loads and stores: the address table of rule R163 by the load/store kind (rules R85, R162), and the
runs whose accesses are admitted (rules R160 to R165). -/

namespace Sys2Proof.Machine

section
variable (w : Nat) {o : MemOps} {s : State} (u : State) (i j : Nat)

/-- The address where rs1 is the address vector (rules R162, R163). -/
theorem elemAddr_of_vector (h : addrIsV s.cfg o = true) : elemAddr w o s u i j =
    (u.elemGet .x (regNum o.base true) i s.cfg.xbits + o.imm.signExtend s.cfg.xbits +
      BitVec.ofNat s.cfg.xbits (j * (w / 8))).toNat := by
  have hindex : (addrOpd o).index 1 i 0 = i := by simp [addrOpd, xOpd, Opd.index]
  rw [elemAddr, effAddr, if_pos h, Opd.get, hindex]
  rfl

/-- The address where rs1 is a base (rules R162, R163). -/
theorem elemAddr_of_base (h : addrIsV s.cfg o = false) : elemAddr w o s u i j =
    (s.getX s.cfg.xbits o.base.toNat + o.imm.signExtend s.cfg.xbits +
      BitVec.ofNat s.cfg.xbits i * strideOf s.cfg.xbits o (o.vtp.svlen.count * (w / 8)) s +
      BitVec.ofNat s.cfg.xbits (j * (w / 8))).toNat := by
  rw [elemAddr, effAddr, if_neg (by rw [h]; exact Bool.false_ne_true)]
  rfl

/-- A stride of `m` bytes for each index (rule R163). -/
theorem elemAddr_of_stride (h : addrIsV s.cfg o = false) {m : Nat}
    (hstride : strideOf s.cfg.xbits o (o.vtp.svlen.count * (w / 8)) s = BitVec.ofNat s.cfg.xbits m) :
    elemAddr w o s u i j = (s.getX s.cfg.xbits o.base.toNat + o.imm.signExtend s.cfg.xbits +
      BitVec.ofNat s.cfg.xbits (i * m + j * (w / 8))).toNat := by
  rw [elemAddr_of_base w u i j h, hstride, BitVec.ofNat_add, BitVec.ofNat_mul i m, BitVec.add_assoc]

end

/-- The model's effective address is that of the table of rule R163. -/
theorem addressTable (w : Nat) (o : MemOps) (s u : State) (i j : Nat) : AddressTable w o s u i j := by
  refine ⟨fun hliteral hi => ?literal, fun hvector lsk hlsk => ?vectorData⟩
  case literal =>
    have hbase : addrIsV s.cfg o = false := by simp [addrIsV, dataIsV, hliteral]
    subst hi
    rw [elemAddr_of_base w u 0 j hbase, BitVec.zero_mul, BitVec.add_zero]
  case vectorData =>
    have haddr : addrIsV s.cfg o = (o.lsk == .x) := by simp [addrIsV, dataIsV, hvector]
    rcases Lsk.ofBits_cases lsk with ⟨rfl, hk⟩ | ⟨rfl, hk⟩ | ⟨k, hcode, hk⟩ | ⟨k, hcode, hk⟩ <;>
      rw [← hlsk] at hk
    · rw [if_pos rfl, elemAddr_of_stride w u i j (by rw [haddr, hk]; rfl) (by rw [strideOf, hk])]
    · rw [if_neg (by decide), if_pos rfl, elemAddr_of_vector w u i j (by rw [haddr, hk]; rfl)]
    · have hlt := k.isLt
      rw [if_neg (by bv_omega), if_neg (by bv_omega), if_pos (by omega), hcode,
        elemAddr_of_stride w u i j (by rw [haddr, hk]; rfl) (by rw [strideOf, hk])]
    · have hlow : (lsk.extractLsb' 0 3).toNat = k.val := by
        have hlt := k.isLt
        rw [BitVec.extractLsb'_toNat, Nat.shiftRight_zero, hcode]
        omega
      rw [if_neg (by bv_omega), if_neg (by bv_omega), if_neg (by omega), hlow,
        elemAddr_of_base w u i j (by rw [haddr, hk]; rfl), strideOf, hk]

/-- Settles O51: the table, and each form as the generic load. -/
theorem svLoads : Obligations.SvLoads := by
  refine ⟨addressTable, fun f hf o s hhere hready hdata => ?_⟩
  rw [exec_svLoadForm hf o hhere]
  exact svLoad_runs f.file f.w o s hready hdata

/-- Settles O52: the table, and each form as the generic store. -/
theorem svStores : Obligations.SvStores := by
  refine ⟨fun w o s i j => addressTable w o s s i j, fun f hf o s hhere hready hdata => ?_⟩
  rw [exec_svStoreForm hf o hhere]
  exact svStore_runs f.file f.w o s (svStoreForms_width f hf) hready hdata

end Sys2Proof.Machine
end

section
/-! PROOFS. NaN-boxing and the unprefixed FP loads and stores (rules R122 to R124, R360, R544, R590 to R595): the boxed
value bit by bit, the box check as a fact about the bits above the operand, and an admitted access in the terms of
Safety.lean. -/

namespace Sys2Proof.Machine

/-! ## NaN-boxing (rules R122, R360) -/

theorem getLsbD_box {w flen : Nat} (v : BitVec w) {k : Nat} (hk : k < flen) :
    (box flen v).getLsbD k = if k < w then v.getLsbD k else true := by
  by_cases hlow : k < w
  · simp [box, BitVec.getLsbD_append, hk, hlow]
  · simp [box, BitVec.getLsbD_append, hk, hlow, show k - w < flen - w by omega]

theorem box_low {w flen : Nat} (v : BitVec w) (h : w ≤ flen) : (box flen v).extractLsb' 0 w = v := by
  apply BitVec.eq_of_getLsbD_eq
  intro k hk
  simp [getLsbD_box v (show k < flen by omega), hk]

theorem box_high {w flen : Nat} (v : BitVec w) :
    (box flen v).extractLsb' w (flen - w) = BitVec.allOnes (flen - w) := by
  apply BitVec.eq_of_getLsbD_eq
  intro k hk
  simp [getLsbD_box v (show w + k < flen by omega), hk]

/-- The box check of `unbox` is that the bits above the operand are all ones. -/
theorem boxed_iff {w flen : Nat} (x : BitVec flen) (h : w ≤ flen) :
    x.toNat / 2 ^ w = 2 ^ (flen - w) - 1 ↔ x.extractLsb' w (flen - w) = BitVec.allOnes (flen - w) := by
  have hlt : x.toNat / 2 ^ w < 2 ^ (flen - w) := by
    rw [Nat.div_lt_iff_lt_mul (Nat.two_pow_pos w), ← Nat.pow_add, Nat.sub_add_cancel h]
    exact x.isLt
  rw [← BitVec.toNat_inj, BitVec.extractLsb'_toNat, BitVec.toNat_allOnes, Nat.shiftRight_eq_div_pow,
    Nat.mod_eq_of_lt hlt]

theorem unbox_of_boxed {f : Fmt} {flen : Nat} {x : BitVec flen} (h : f.width ≤ flen)
    (hbox : x.extractLsb' f.width (flen - f.width) = BitVec.allOnes _) : unbox f x = x.extractLsb' 0 f.width := by
  rw [unbox, if_pos ((boxed_iff x h).2 hbox), BitVec.setWidth_eq_extractLsb' h]

theorem unbox_of_not_boxed {f : Fmt} {flen : Nat} {x : BitVec flen} (h : f.width ≤ flen)
    (hbox : x.extractLsb' f.width (flen - f.width) ≠ BitVec.allOnes _) : unbox f x = Fp.canonicalNaN f :=
  if_neg fun hx => hbox ((boxed_iff x h).1 hx)

/-- Settles O27: the boxed value's two parts, and the two outcomes of the box check. -/
theorem nanBoxing : Obligations.NanBoxing :=
  fun _ _ v _ h => ⟨box_low v h, box_high v, unbox_of_boxed h, unbox_of_not_boxed h⟩

/-! ## Admitted unprefixed accesses (rule R544) -/

section
variable {s : State} {rs1 : BitVec 5} {imm : BitVec 12} {w : Nat}

theorem baseLoad_of_canLoad (h : CanLoad s (s.ea rs1 imm) w) (k : BitVec w → State) :
    baseLoad w rs1 imm s k = .next ((k (s.memGet (s.ea rs1 imm) w)).advance 4) := by
  rw [CanLoad] at h
  simp only [baseLoad, baseAddr_eq_ea, h]

theorem baseStore_of_canStore (h : CanStore s (s.ea rs1 imm) w) (v : BitVec w) :
    baseStore w rs1 imm v s = .next ((s.memPut (s.ea rs1 imm) w v).advance 4) := by
  obtain ⟨hpass, htext⟩ := h
  simp only [baseStore, baseAddr_eq_ea, hpass, htext, Bool.false_eq_true, if_false]

/-- An admitted store writes the value's bytes and nothing else. -/
theorem baseStore_gives (h : CanStore s (s.ea rs1 imm) w) (hw : w ≤ 128) (v : BitVec w) :
    GivesMem (baseStore w rs1 imm v s) s (s.ea rs1 imm) w v :=
  ⟨_, baseStore_of_canStore h v, s.memPut_stores _ w v (by omega)⟩

/-! ## FP loads and stores (rules R122 to R124, R590 to R595) -/

theorem State.orFlags_zero (s : State) : s.orFlags 0#5 = s := by
  rw [State.orFlags, BitVec.or_zero]
  rfl

/-- An admitted FP load retires the value read as an FP result without flags does. -/
theorem loadF_of_canLoad (h : CanLoad s (s.ea rs1 imm) w) (rd : BitVec 5) :
    loadF w rd rs1 imm s = s.retireF rd (Fp.noFlags (s.memGet (s.ea rs1 imm) w)) := by
  simp only [loadF, baseLoad_of_canLoad h, State.retireF, Fp.noFlags, State.orFlags_zero]

/-- An FP load that FLEN has room for: the form of `flh`, `flw`, `fld` and `flq`. -/
theorem legally_loadF_gives (h : CanLoad s (s.ea rs1 imm) w) (hfits : w ≤ s.cfg.fbits) (i : Instr) (rd : BitVec 5) :
    GivesF (legally (decide (w ≤ s.cfg.fbits)) i s (loadF w rd rs1 imm s)) s rd
      (box s.cfg.fbits (s.memGet (s.ea rs1 imm) w)) 0 := by
  rw [legally_of_legal (decide_eq_true hfits), loadF_of_canLoad h]
  exact s.retireF_sets rd _

/-- An FP store that FLEN has room for: the form of `fsh`, `fsw`, `fsd` and `fsq`. -/
theorem legally_storeF_gives (h : CanStore s (s.ea rs1 imm) w) (hfits : w ≤ s.cfg.fbits) (hw : w ≤ 128) (i : Instr)
    (rs2 : BitVec 5) : GivesMem (legally (decide (w ≤ s.cfg.fbits)) i s (storeF w rs2 rs1 imm s)) s (s.ea rs1 imm) w
      ((s.fr rs2).setWidth w) := by
  rw [legally_of_legal (decide_eq_true hfits)]
  exact baseStore_gives h hw _

end

/-- Settles O25: four loads and four stores, each the shared form at its width. -/
theorem fpLoadsStores : Obligations.FpLoadsStores := by
  intro rd rs1 imm s a ha
  subst ha
  refine ⟨?flh, ?flw, ?fld, ?flq, ?fsh, ?fsw, ?fsd, ?fsq⟩
  case flh | flw | fld | flq => exact fun h hfits => legally_loadF_gives h hfits _ rd
  case fsh | fsw | fsd | fsq => exact fun h hfits => legally_storeF_gives h hfits (by decide) _ rd

end Sys2Proof.Machine
end

section
/-! PROOFS. Prefixed computations whose operands lie in the register files (rules R138, R190 to R299): each form runs
its element function over every enabled index, said once for each form; an instruction is then its element function. -/

namespace Sys2Proof.Machine

/-! ## The element functions (rules R194, R199 to R213, R277) -/

namespace Alu

section
variable {w : Nat} (a b : BitVec w)

theorem slt_eq : slt a b = if a.toInt < b.toInt then 1 else 0 := by
  simp only [slt, bit, decide_eq_true_eq]
  rfl

theorem sltu_eq : sltu a b = if a.toNat < b.toNat then 1 else 0 := by
  simp only [sltu, bit, decide_eq_true_eq]
  rfl

theorem mulh_eq : mulh a b = BitVec.ofInt w (a.toInt * b.toInt / (2 : Int) ^ w) := by
  simp only [mulh, highPart, Nat.cast_pow, Nat.cast_ofNat]

theorem mulhsu_eq : mulhsu a b = BitVec.ofInt w (a.toInt * (b.toNat : Int) / (2 : Int) ^ w) := by
  simp only [mulhsu, highPart, Nat.cast_pow, Nat.cast_ofNat]

theorem mulhu_eq : mulhu a b = BitVec.ofNat w (a.toNat * b.toNat / 2 ^ w) := by
  rw [mulhu, highPart, ← BitVec.ofInt_natCast]
  norm_cast

theorem toNat_eq_zero_iff : b.toNat = 0 ↔ b = 0 := by
  rw [← BitVec.toNat_inj]
  rfl

/-- The quotient truncated toward zero, the overflow wrapping to the dividend (rules R194, R210). -/
theorem ofInt_quot : BitVec.ofInt w (quot a.toInt b.toInt) = a.sdiv b := by
  apply BitVec.eq_of_toInt_eq
  rw [BitVec.toInt_ofInt, BitVec.toInt_sdiv, quot]

theorem div_eq : div a b = if b = 0 then BitVec.allOnes w else a.sdiv b := by
  simp only [div, toNat_eq_zero_iff, ofInt_quot]

theorem divu_eq : divu a b = if b = 0 then BitVec.allOnes w else a.udiv b := by
  simp only [divu, toNat_eq_zero_iff, BitVec.udiv_eq, BitVec.udiv_def]

theorem rem_eq : rem a b = if b = 0 then a else a.srem b := by
  have hrem : BitVec.ofInt w (a.toInt - b.toInt * quot a.toInt b.toInt) = a.srem b := by
    rw [quot, ← Int.tmod_def, ← BitVec.toInt_srem, BitVec.ofInt_toInt]
  simp only [rem, toNat_eq_zero_iff, hrem]

theorem remu_eq : remu a b = if b = 0 then a else a.umod b := by
  simp only [remu, toNat_eq_zero_iff, BitVec.umod_eq, BitVec.umod_def]

end

end Alu

/-! ## The forms: operands in range -/

/-- An element-wise instruction without flags, its operands in range: the form of every integer one (rules R191, R195,
R230, R247). -/
theorem elementwise_noFlags_runs {isvec : Bool} {p : Pred} {n w : Nat} {dst : Opd} {srcs : List SizedOpd} {s : State}
    (g : State → Nat → Nat → BitVec w) (hdst : OpdFits dst w n isvec p s)
    (hsrcs : ∀ x ∈ srcs, OpdFits x.1 x.2 n isvec p s) :
    ∃ t, execPrefixed isvec p (elementwise n dst w srcs fun u i j => Fp.noFlags (g u i j)) s = .next t ∧
      RunsOver isvec p (fun i a b => ElemsWritten dst w n i (g a i) 0#5 a b) s t := by
  have hflags (j : Nat) : flagsOf (fun _ => 0#5) n j = 0#5 := flagsOf_zero (fun _ => rfl) n j
  have hrun := elementwise_runs isvec p n dst w srcs (fun u i j => Fp.noFlags (g u i j)) s hdst hsrcs
  simpa only [Fp.noFlags, hflags] using hrun

/-- P48R (rules R190, R191). -/
theorem svIntR_runs {o : ROps} {s : State} (hfits : o.Fits s) (f : (w : Nat) → BitVec w → BitVec w → BitVec w)
    {g : BitVec (o.vitp.itype.width s.cfg.xbits) → BitVec (o.vitp.itype.width s.cfg.xbits) →
      BitVec (o.vitp.itype.width s.cfg.xbits)} (hfg : ∀ a b, f _ a b = g a b) : o.Runs (svIntR f o s) s g := by
  obtain ⟨hrd, hrs1, hrs2⟩ := hfits
  rw [← funext₂ hfg]
  exact elementwise_noFlags_runs _ hrd (by simp [hrs1, hrs2])

/-- P48I (rule R230). -/
theorem svIntI_runs {o : IOps} {s : State} (hfits : o.Fits s) (f : (w : Nat) → BitVec w → BitVec w → BitVec w)
    {g : BitVec (o.vitp.itype.width s.cfg.xbits) → BitVec (o.vitp.itype.width s.cfg.xbits)}
    (hfg : ∀ a, f _ a (o.m s) = g a) : o.Runs (svIntI f o s) s g := by
  obtain ⟨hrd, hrs1⟩ := hfits
  rw [← funext hfg]
  exact elementwise_noFlags_runs _ hrd (by simp [hrs1])

/-- Shift-immediate P48I (rules R233, R240). -/
theorem svShift_runs {o : ShOps} {s : State} (hfits : o.Fits s) (g : (w : Nat) → Nat → BitVec w → BitVec w) :
    o.Runs (svShift g o s) s (g _ o.shamt.toNat) := by
  obtain ⟨hrd, hrs1⟩ := hfits
  exact elementwise_noFlags_runs _ hrd (by simp [hrs1])

/-- P48U (rule R247). -/
theorem svUpper_runs {o : UOps} {s : State} (hfits : o.Fits s) (v : (xlen : Nat) → BitVec xlen) :
    o.Runs (svUpper v o s) s (v _) :=
  elementwise_noFlags_runs _ hfits (by simp)

/-- P48FR (rule R266). -/
theorem svFr_runs {o : FrOps} {s : State} {file : RegFile} {wd : Nat} (hfits : o.Fits s file wd)
    (f : BitVec o.fmt.width → BitVec o.fmt.width → Fp.Res wd) : o.Runs (svFr file wd o f s) s file wd f := by
  obtain ⟨hrd, hrs1, hrs2⟩ := hfits
  exact elementwise_runs _ _ _ _ _ _ _ _ hrd (by simp [hrs1, hrs2])

/-- P48FI (rule R266). -/
theorem svFi_runs {o : FiOps} {s : State} {fd fs : RegFile} {wd ws : Nat} (hfits : o.Fits s fd wd fs ws)
    (f : BitVec ws → Fp.Res wd) : o.Runs (svFi fd wd fs ws o f s) s fd wd fs ws f := by
  obtain ⟨hrd, hrs1⟩ := hfits
  exact elementwise_runs _ _ _ _ _ _ _ _ hrd (by simp [hrs1])

/-- P48FR4 (rules R266, R294). -/
theorem svFr4_runs {o : Fr4Ops} {s : State} (hfits : o.Fits s)
    (f : BitVec o.fmt.width → BitVec o.fmt.width → BitVec o.fmt.width → Fp.Res o.fmt.width) :
    o.Runs (svFr4 o f s) s f := by
  obtain ⟨hrd, hrs1, hrs2, hrs3⟩ := hfits
  exact elementwise_runs _ _ _ _ _ _ _ _ hrd (by simp [hrs1, hrs2, hrs3])

/-! ## Integer instructions (rules R190 to R249) -/

/-- Settles O44: each instruction is the P48R form with its element function. -/
theorem svIntegerArithmetic : Obligations.SvIntegerArithmetic := by
  intro o s hfits
  refine ⟨?add, ?addw, ?sub, ?subw, ?sll, ?sllw, ?slt, ?sltu, ?xor, ?srl, ?srlw, ?sra, ?sraw, ?or, ?and⟩
  case add | addw => exact svIntR_runs hfits (fun _ => Alu.add) fun _ _ => rfl
  case sub | subw => exact svIntR_runs hfits (fun _ => Alu.sub) fun _ _ => rfl
  case sll | sllw => exact svIntR_runs hfits (fun _ => Alu.sll) fun _ _ => rfl
  case slt => exact svIntR_runs hfits (fun _ => Alu.slt) Alu.slt_eq
  case sltu => exact svIntR_runs hfits (fun _ => Alu.sltu) Alu.sltu_eq
  case xor => exact svIntR_runs hfits (fun _ => Alu.xor) fun _ _ => rfl
  case srl | srlw => exact svIntR_runs hfits (fun _ => Alu.srl) fun _ _ => rfl
  case sra | sraw => exact svIntR_runs hfits (fun _ => Alu.sra) fun _ _ => rfl
  case or => exact svIntR_runs hfits (fun _ => Alu.or) fun _ _ => rfl
  case and => exact svIntR_runs hfits (fun _ => Alu.and) fun _ _ => rfl

/-- Settles O45: the machine has the instructions (HAS_M), and each is the P48R form with its element function. -/
theorem svMultiplyDivide : Obligations.SvMultiplyDivide := by
  intro o s w hw hm hfits
  subst hw
  simp only [exec, execSvMul, execSvMulw, execSvMulh, execSvMulhsu, execSvMulhu, execSvDiv, execSvDivw, execSvDivu,
    execSvDivuw, execSvRem, execSvRemw, execSvRemu, execSvRemuw, legally_of_legal hm]
  refine ⟨?mul, ?mulw, ?mulh, ?mulhsu, ?mulhu, ?div, ?divw, ?divu, ?divuw, ?rem, ?remw, ?remu, ?remuw⟩
  case mul | mulw => exact svIntR_runs hfits (fun _ => Alu.mul) fun _ _ => rfl
  case mulh => exact svIntR_runs hfits (fun _ => Alu.mulh) Alu.mulh_eq
  case mulhsu => exact svIntR_runs hfits (fun _ => Alu.mulhsu) Alu.mulhsu_eq
  case mulhu => exact svIntR_runs hfits (fun _ => Alu.mulhu) Alu.mulhu_eq
  case div | divw => exact svIntR_runs hfits (fun _ => Alu.div) Alu.div_eq
  case divu | divuw => exact svIntR_runs hfits (fun _ => Alu.divu) Alu.divu_eq
  case rem | remw => exact svIntR_runs hfits (fun _ => Alu.rem) Alu.rem_eq
  case remu | remuw => exact svIntR_runs hfits (fun _ => Alu.remu) Alu.remu_eq

/-- Settles O46: each instruction is the P48I form with its element function, or the P48U form with its value. -/
theorem svImmediate : Obligations.SvImmediate := by
  refine ⟨fun o s hfits => ⟨?add, ?addw, ?slt, ?sltu, ?xor, ?or, ?and⟩, fun o s hfits => ⟨?lui, ?auipc⟩⟩
  case add | addw => exact svIntI_runs hfits (fun _ => Alu.add) fun _ => rfl
  case slt => exact svIntI_runs hfits (fun _ => Alu.slt) fun a => Alu.slt_eq a _
  case sltu => exact svIntI_runs hfits (fun _ => Alu.sltu) fun a => Alu.sltu_eq a _
  case xor => exact svIntI_runs hfits (fun _ => Alu.xor) fun _ => rfl
  case or => exact svIntI_runs hfits (fun _ => Alu.or) fun _ => rfl
  case and => exact svIntI_runs hfits (fun _ => Alu.and) fun _ => rfl
  case lui => exact svUpper_runs hfits fun xlen => immUpper xlen o.imm
  case auipc => exact svUpper_runs hfits fun xlen => s.pcAt xlen + immUpper xlen o.imm

/-- Settles O47: each instruction is the P48I form with its shift, which the machine has where the amount is below the
element width. -/
theorem svShiftImmediate : Obligations.SvShiftImmediate := by
  intro o s
  refine ⟨fun hlt hfits => ?_, fun hle i hi => ?_⟩
  · simp only [exec, execSvSlli, execSvSlliw, execSvSrli, execSvSrliw, execSvSrai, execSvSraiw,
      legally_of_legal (decide_eq_true hlt)]
    refine ⟨?sll, ?sllw, ?srl, ?srlw, ?sra, ?sraw⟩
    case sll | sllw => exact svShift_runs hfits fun _ => Alu.slli
    case srl | srlw => exact svShift_runs hfits fun _ => Alu.srli
    case sra | sraw => exact svShift_runs hfits fun _ => Alu.srai
  · have hshape : i.shape s = some (o.shape s) := by
      simp only [List.mem_cons, List.not_mem_nil, or_false] at hi
      rcases hi with rfl | rfl | rfl | rfl | rfl | rfl <;> rfl
    exact (exec_of_shape hshape).1 (decide_eq_false (not_lt.2 hle))

/-! ## FP instructions (rules R260 to R298) -/

/-- The rounding mode in force (rules R110, R265). -/
theorem Rounds.roundingMode_eq {s : State} {rm : Rm} {m : RoundMode} (h : Rounds s rm m) :
    roundingMode s rm = some m := by
  rcases h with rfl | ⟨rfl, hfrm⟩
  · rfl
  · rw [roundingMode, hfrm]
    cases m <;> rfl

/-- An instruction with a rounding mode, where the machine has it and the mode is to be had. -/
theorem legally_rounded {s : State} {rm : Rm} {m : RoundMode} (hm : Rounds s rm m) {ok : Bool} (hok : ok = true)
    (i : Instr) (k : RoundMode → Out) : legally ok i s (rounded rm i s k) = k m := by
  rw [legally_of_legal hok, rounded, hm.roundingMode_eq]

/-- A comparison's 0 or 1 (rule R277). -/
theorem Fp.ofBool_eq (w : Nat) (r : Bool × BitVec 5) : Fp.ofBool w r = (if r.1 then 1 else 0, r.2) := by
  rw [Fp.ofBool]
  split <;> rfl

/-- Settles O48: the machine has the instructions, and each is the P48FR form with its element function. -/
theorem svFpTwoSource : Obligations.SvFpTwoSource := by
  intro rm m o s hfmt
  have hlegal : fmtFits s o.fmt = true := decide_eq_true hfmt
  refine ⟨fun hfits hm => ?_, fun hfits => ?_, fun hfits => ?_⟩
  · simp only [exec, execSvFaddFmt, execSvFsubFmt, execSvFmulFmt, execSvFdivFmt, legally_rounded hm hlegal]
    exact ⟨svFr_runs hfits _, svFr_runs hfits _, svFr_runs hfits _, svFr_runs hfits _⟩
  · simp only [exec, execSvFsgnjFmt, execSvFsgnjnFmt, execSvFsgnjxFmt, execSvFminFmt, execSvFmaxFmt,
      legally_of_legal hlegal]
    exact ⟨svFr_runs hfits _, svFr_runs hfits _, svFr_runs hfits _, svFr_runs hfits _, svFr_runs hfits _⟩
  · simp only [exec, execSvFeqFmt, execSvFltFmt, execSvFleFmt, legally_of_legal hlegal, Fp.ofBool_eq]
    exact ⟨svFr_runs hfits _, svFr_runs hfits _, svFr_runs hfits _⟩

/-- Settles O49: the machine has the instructions, and each is the P48FI form with its element function. -/
theorem svFpOneSource : Obligations.SvFpOneSource := by
  intro src rm m o s hfmt hm
  have hlegal : fmtFits s o.fmt = true := decide_eq_true hfmt
  have hlegal64 (hx : s.cfg.xlen = .rv64) : (fmtFits s o.fmt && s.cfg.xlen == .rv64) = true := by rw [hlegal, hx]; rfl
  have hlegalx (hx : o.fmt.width ≤ s.cfg.xbits) : (fmtFits s o.fmt && decide (o.fmt.width ≤ s.cfg.xbits)) = true := by
    rw [hlegal, decide_eq_true hx]; rfl
  refine ⟨?sqrt, ?toInt32, ?toInt64, ?ofInt32, ?ofInt64, ?cvt, ?mvToX, ?mvFromX, ?classify⟩
  case sqrt =>
    intro hfits
    simp only [exec, execSvFsqrtFmt, legally_rounded hm hlegal]
    exact svFi_runs hfits _
  case toInt32 =>
    intro hfits
    simp only [exec, execSvFcvtWFmt, execSvFcvtWuFmt, legally_rounded hm hlegal]
    exact ⟨svFi_runs hfits _, svFi_runs hfits _⟩
  case toInt64 =>
    intro hfits hx
    simp only [exec, execSvFcvtLFmt, execSvFcvtLuFmt, legally_rounded hm (hlegal64 hx)]
    exact ⟨svFi_runs hfits _, svFi_runs hfits _⟩
  case ofInt32 =>
    intro hfits
    simp only [exec, execSvFcvtFmtW, execSvFcvtFmtWu, legally_rounded hm hlegal]
    exact ⟨svFi_runs hfits _, svFi_runs hfits _⟩
  case ofInt64 =>
    intro hfits hx
    simp only [exec, execSvFcvtFmtL, execSvFcvtFmtLu, legally_rounded hm (hlegal64 hx)]
    exact ⟨svFi_runs hfits _, svFi_runs hfits _⟩
  case cvt =>
    intro hfits hsrc hne
    have hlegalCvt : (fmtFits s o.fmt && fmtFits s src && src != o.fmt) = true := by
      simp [fmtFits, hfmt, hsrc, hne]
    simp only [exec, execSvFcvtFmtFmt, legally_rounded hm hlegalCvt]
    exact svFi_runs hfits _
  case mvToX =>
    intro hfits hx
    simp only [exec, execSvFmvXFmt, legally_of_legal (hlegalx hx)]
    exact svFi_runs hfits Fp.noFlags
  case mvFromX =>
    intro hfits hx
    simp only [exec, execSvFmvFmtX, legally_of_legal (hlegalx hx)]
    exact svFi_runs hfits Fp.noFlags
  case classify =>
    intro hfits
    simp only [exec, execSvFclassFmt, legally_of_legal hlegal]
    exact svFi_runs hfits _

/-- Settles O50: the machine has the instructions, and each is the P48FR4 form with its element function. -/
theorem svFpFused : Obligations.SvFpFused := by
  intro rm m o s hfmt hm hfits
  simp only [exec, execSvFmaddFmt, execSvFmsubFmt, execSvFnmsubFmt, execSvFnmaddFmt,
    legally_rounded hm (show fmtFits s o.fmt = true from decide_eq_true hfmt)]
  exact ⟨svFr4_runs hfits _, svFr4_runs hfits _, svFr4_runs hfits _, svFr4_runs hfits _⟩

end Sys2Proof.Machine
end

section
/-! PROOFS. Updates aside: an update of a state that changes nothing a sub-vector operation reads or writes commutes
with the loop of the prefixed instructions (rules R136 to R144). VL and Vstart, the trap registers and TRAP_MODEL are
changed so by the proofs below. -/

namespace Sys2Proof.Machine

/-! ## States with the same operands -/

/-- Two states have the same register files, and the parameters that place elements in them and class the operands of a
load or store. -/
structure SameOperands (s t : State) : Prop where
  xlen : t.cfg.xlen = s.cfg.xlen
  flen : t.cfg.flen = s.cfg.flen
  ldstClass : t.cfg.ldstClass = s.cfg.ldstClass
  xregs : t.xregs = s.xregs
  fregs : t.fregs = s.fregs

namespace SameOperands

section
variable {s t : State} (h : SameOperands s t)
include h

theorem xbits : t.cfg.xbits = s.cfg.xbits := by rw [Config.xbits, h.xlen]

theorem fbits : t.cfg.fbits = s.cfg.fbits := by rw [Config.fbits, h.flen]

theorem regs (f : RegFile) : t.regs f = s.regs f := by
  cases f
  · exact h.xregs
  · exact h.fregs

theorem rb (f : RegFile) : t.rb f = s.rb f := by cases f <;> simp only [State.rb, h.xbits, h.fbits]

theorem firstByte (f : RegFile) : t.firstByte f = s.firstByte f := by cases f <;> simp only [State.firstByte, h.xbits]

theorem elemByte (f : RegFile) (n k w : Nat) : t.elemByte f n k w = s.elemByte f n k w := by
  rw [State.elemByte, h.rb]; rfl

theorem elemGet (f : RegFile) (n k w : Nat) : t.elemGet f n k w = s.elemGet f n k w := by
  have hbytes : t.regBytes f (s.elemByte f n k w) (w / 8) = s.regBytes f (s.elemByte f n k w) (w / 8) :=
    State.regBytes_congr _ _ _ _ _ _ _ fun m _ => by rw [State.regByte, h.firstByte, h.regs]; rfl
  rw [State.elemGet, h.elemByte, hbytes]
  rfl

theorem get (o : Opd) (w n i j : Nat) : o.get t w n i j = o.get s w n i j := h.elemGet ..

theorem overrun (o : Opd) (w n i j : Nat) : o.overrun t w n i j = o.overrun s w n i j := by
  rw [Opd.overrun, Opd.fits, State.elemFits, h.elemByte, h.rb]
  rfl

theorem getX (w r : Nat) : t.getX w r = s.getX w r := h.elemGet ..

theorem enabled (p : Pred) : enabled p t = enabled p s := by
  funext i
  cases p with
  | always => rfl
  | on r sense =>
    simp only [Machine.enabled]
    rw [h.xbits, h.getX]

theorem dataIsV : dataIsV t.cfg = dataIsV s.cfg := by rw [Machine.dataIsV, h.ldstClass]; rfl

theorem addrIsV (o : MemOps) : addrIsV t.cfg o = addrIsV s.cfg o := by rw [Machine.addrIsV, h.dataIsV]; rfl

theorem memIsVec : memIsVec t = memIsVec s := h.dataIsV

theorem dataOpd (file : RegFile) (o : MemOps) : dataOpd file o t = dataOpd file o s := by
  rw [Machine.dataOpd, h.dataIsV]; rfl

/-- The start of an instruction gives base, offset and stride (rule R134). -/
theorem effAddr_start (w : Nat) (o : MemOps) (u : State) (n e i j : Nat) :
    effAddr w o t u n e i j = effAddr w o s u n e i j := by
  have hstride (svsz : Nat) : strideOf w o svsz t = strideOf w o svsz s := by simp only [strideOf, h.getX]
  simp only [effAddr, h.addrIsV, plainBase, h.getX, hstride]

/-- The state before a sub-vector gives the address vector (rule R164). -/
theorem effAddr_read (o : MemOps) (s0 : State) (n e i j : Nat) :
    (effAddr t.cfg.xbits o s0 t n e i j).toNat = (effAddr s.cfg.xbits o s0 s n e i j).toNat := by
  rw [h.xbits]
  simp only [effAddr, h.get]

/-- The operation of a load is that of the operands at its start. -/
theorem loadOp (file : RegFile) (w : Nat) (o : MemOps) :
    loadOp (Machine.dataOpd file o t) w o t = loadOp (Machine.dataOpd file o s) w o s := by
  simp only [Machine.loadOp, loadStop, h.dataOpd, h.effAddr_start, h.addrIsV]

/-- The operation of a store is that of the operands at its start. -/
theorem storeOp (file : RegFile) (w : Nat) (o : MemOps) :
    storeOp (Machine.dataOpd file o t) w o t = storeOp (Machine.dataOpd file o s) w o s := by
  simp only [Machine.storeOp, storeStop, textStop, h.dataOpd, h.effAddr_start, h.addrIsV]

end

end SameOperands

/-! ## Updates aside -/

/-- An update that keeps the operands, memory and the flags, and whatever these are written with: the writes of a
sub-vector operation commute with it. An update that sets other fields is one by definition, so the fields have that
proof. -/
structure Aside (φ : State → State) : Prop where
  same : ∀ s, SameOperands s (φ s) := by exact fun _ => ⟨rfl, rfl, rfl, rfl, rfl⟩
  mem : ∀ s, (φ s).mem = s.mem := by exact fun _ => rfl
  fflags : ∀ s, (φ s).fflags = s.fflags := by exact fun _ => rfl
  setXregs : ∀ s m, (φ s).setXregs m = φ (s.setXregs m) := by exact fun _ _ => rfl
  setFregs : ∀ s m, (φ s).setFregs m = φ (s.setFregs m) := by exact fun _ _ => rfl
  setMem : ∀ s m, (φ s).setMem m = φ (s.setMem m) := by exact fun _ _ => rfl
  setFflags : ∀ s f, (φ s).setFflags f = φ (s.setFflags f) := by exact fun _ _ => rfl

/-- An update aside after which the same accesses are admitted. -/
structure AsideOfChecks (φ : State → State) : Prop extends Aside φ where
  checkAccess : ∀ s a n k, (φ s).checkAccess a n k = s.checkAccess a n k := by exact fun _ _ _ _ => rfl
  hitsText : ∀ s a n, (φ s).hitsText a n = s.hitsText a n := by exact fun _ _ _ => rfl

theorem putEach_map {φ : State → State} {put : State → Nat → State} (hput : ∀ u j, put (φ u) j = φ (put u j))
    (n j : Nat) (s : State) : putEach put n j (φ s) = φ (putEach put n j s) := by
  induction n generalizing j s with
  | zero => rfl
  | succ n ih => rw [putEach, hput, ih]; rfl

namespace Aside

section
variable {φ : State → State} (h : Aside φ)
include h

theorem setRegByte (s : State) (f : RegFile) (b : Nat) (v : Byte) :
    (φ s).setRegByte f b v = φ (s.setRegByte f b v) := by
  rw [State.setRegByte, (h.same s).firstByte, (h.same s).regs, State.setRegByte]
  split
  · rfl
  · cases f
    · exact h.setXregs ..
    · exact h.setFregs ..

theorem setRegBytes (s : State) (f : RegFile) (b0 v n : Nat) :
    (φ s).setRegBytes f b0 v n = φ (s.setRegBytes f b0 v n) := by
  induction n with
  | zero => rfl
  | succ n ih => rw [State.setRegBytes, ih, h.setRegByte]; rfl

theorem put (o : Opd) (s : State) (w n i j : Nat) (v : BitVec w) :
    o.put (φ s) w n i j v = φ (o.put s w n i j v) := by
  simp only [Opd.put, State.elemPut, (h.same s).elemByte, h.setRegBytes]

theorem wrapAddr (s : State) : (φ s).wrapAddr = s.wrapAddr := by
  funext a m
  simp only [State.wrapAddr, State.span, (h.same s).xbits]

theorem memGet (s : State) (a w : Nat) : (φ s).memGet a w = s.memGet a w := by
  simp only [State.memGet, h.mem, h.wrapAddr]

theorem memPut (s : State) (a w : Nat) (v : BitVec w) : (φ s).memPut a w v = φ (s.memPut a w v) := by
  simp only [State.memPut, h.mem, h.wrapAddr, h.setMem]

theorem orFlags (s : State) (f : BitVec 5) : (φ s).orFlags f = φ (s.orFlags f) := by
  simp only [State.orFlags, h.fflags, h.setFflags]

theorem commit_loadOp (dst : Opd) (w : Nat) (o : MemOps) (s0 u : State) (i : Nat) :
    (loadOp dst w o s0).commit (φ u) i = φ ((loadOp dst w o s0).commit u i) := by
  simp only [loadOp, (h.same u).effAddr_read, h.memGet]
  exact putEach_map (fun v _ => h.put dst v ..) ..

theorem commit_storeOp (src : Opd) (w : Nat) (o : MemOps) (s0 u : State) (i : Nat) :
    (storeOp src w o s0).commit (φ u) i = φ ((storeOp src w o s0).commit u i) := by
  simp only [storeOp, (h.same u).effAddr_read, (h.same u).get]
  exact putEach_map (fun v _ => h.memPut v ..) ..

theorem commit_elementwise {w : Nat} {f : State → Nat → Nat → Fp.Res w} (hf : ∀ u, f (φ u) = f u) (n : Nat) (dst : Opd)
    (srcs : List SizedOpd) (u : State) (i : Nat) :
    (elementwise n dst w srcs f).commit (φ u) i = φ ((elementwise n dst w srcs f).commit u i) := by
  simp only [elementwise, commitElems, hf]
  rw [putEach_map (fun _ _ => h.put ..), h.orFlags]

theorem sourceStop (srcs : List SizedOpd) (s : State) (n i j : Nat) :
    sourceStop srcs (φ s) n i j = sourceStop srcs s n i j := by
  induction srcs with
  | nil => rfl
  | cons x rest ih => simp only [Machine.sourceStop, (h.same s).overrun, ih]

theorem destStop (dst : Opd) (w : Nat) (s : State) (n i : Nat) : destStop dst w (φ s) n i = destStop dst w s n i := by
  simp only [Machine.destStop, (h.same s).overrun]

end

end Aside

/-! ## The loop -/

/-- Neither the check of the operation nor its writes touch what the update changes. -/
structure SubOp.Ignores (op : SubOp) (φ : State → State) : Prop where
  check : ∀ u i, op.check (φ u) i = op.check u i
  commit : ∀ u i, op.commit (φ u) i = φ (op.commit u i)

theorem Aside.ignores_elementwise {φ : State → State} (h : Aside φ) {w : Nat} {f : State → Nat → Nat → Fp.Res w}
    (hf : ∀ u, f (φ u) = f u) (n : Nat) (dst : Opd) (srcs : List SizedOpd) :
    (elementwise n dst w srcs f).Ignores φ where
  check u i := by simp only [elementwise, h.sourceStop, h.destStop]
  commit := h.commit_elementwise hf n dst srcs

theorem AsideOfChecks.ignores_loadOp {φ : State → State} (h : AsideOfChecks φ) (dst : Opd) (w : Nat) (o : MemOps)
    (s0 : State) : (loadOp dst w o s0).Ignores φ where
  check u i := by
    simp only [loadOp, loadStop, (h.same u).effAddr_read, (h.same u).overrun, (h.same u).xbits, h.checkAccess,
      h.destStop]
  commit := h.commit_loadOp dst w o s0

theorem AsideOfChecks.ignores_storeOp {φ : State → State} (h : AsideOfChecks φ) (src : Opd) (w : Nat) (o : MemOps)
    (s0 : State) : (storeOp src w o s0).Ignores φ where
  check u i := by
    simp only [storeOp, storeStop, textStop, (h.same u).effAddr_read, (h.same u).overrun, (h.same u).xbits,
      h.checkAccess, h.hitsText]
  commit := h.commit_storeOp src w o s0

/-- The end of the loop with its state updated. -/
def LoopEnd.map (φ : State → State) : LoopEnd → LoopEnd
  | .done s => .done (φ s)
  | .stopped i st s => .stopped i st (φ s)

theorem subLoop_map {op : SubOp} {φ : State → State} (h : op.Ignores φ) (en : Nat → Bool) (n i : Nat) (s : State) :
    subLoop en op n i (φ s) = (subLoop en op n i s).map φ := by
  induction n generalizing i s with
  | zero => rfl
  | succ n ih =>
    rw [subLoop, subLoop, h.check, h.commit]
    split
    · split
      · exact ih ..
      · rfl
    · exact ih ..

theorem stateBefore_map {op : SubOp} {φ : State → State} (h : ∀ u i, op.commit (φ u) i = φ (op.commit u i))
    (en : Nat → Bool) (lo : Nat) (s : State) (k : Nat) :
    stateBefore en op lo (φ s) k = φ (stateBefore en op lo s k) := by
  induction k with
  | zero => rfl
  | succ k ih =>
    rw [stateBefore, stateBefore, ih, h]
    split <;> rfl

end Sys2Proof.Machine
end

section
/-! PROOFS. VL and Vstart: a vector instruction over no index (rules R143, R146, R147), and scalar prefixed
instructions, whose one index is 0 whatever VL and Vstart are (rules R132, R149). -/

namespace Sys2Proof.Machine

/-- A prefixed load or store that the machine does not have is IllegalInstruction (rules R166, R385). -/
theorem exec_memForm_of_not_here {f : MemForm} (hf : f ∈ svLoadForms ++ svStoreForms) (o : MemOps) {s : State}
    (h : ¬f.Here s) : exec (f.ctor o) s = raise .illegalInstruction (encodeWord s.cfg.setvlEnc (f.ctor o)) s := by
  simp only [svLoadForms, svStoreForms, List.cons_append, List.nil_append, List.mem_cons, List.not_mem_nil,
    or_false] at hf
  rcases hf with rfl | rfl | rfl | rfl | rfl | rfl | rfl | rfl | rfl | rfl | rfl | rfl | rfl | rfl | rfl | rfl | rfl |
      rfl | rfl <;>
    simp only [MemForm.Here, reduceCtorEq, Bool.false_eq_true, false_imp_iff, true_imp_iff, and_true, true_and,
      not_true_eq_false] at h <;>
    simp [h, exec, execSvLd, execSvLwu, execSvFlh, execSvFlw, execSvFld, execSvFlq, execSvSd, execSvFsh, execSvFsw,
      execSvFsd, execSvFsq, legally]

/-! ## No index -/

/-- A vector instruction with Vstart at or above VL clears Vstart and moves past itself. -/
theorem execPrefixed_empty {s : State} (h : s.vl ≤ s.vstart) (p : Pred) (op : SubOp) :
    ∃ t, execPrefixed true p op s = .next t ∧ t = { s with pc := t.pc, vstart := 0 } ∧ PastPc s t 6 := by
  have hcount : indexCount true s = 0 := Nat.sub_eq_zero_of_le h
  obtain ⟨t, ht, hpc, heq⟩ := finish_done true s s rfl rfl rfl
  refine ⟨t, ?_, heq, hpc⟩
  rw [execPrefixed_eq, hcount]
  exact ht

/-- Settles O56: a computation by its shape, a load or store because its data operand is a vector. -/
theorem emptyVector : Obligations.EmptyVector := by
  intro s
  refine ⟨fun i h hs => ⟨(exec_of_shape hs).1, fun hvl hlegal hvec => ?_⟩, fun hvl o hclass f hf hhere => ?_⟩
  · obtain ⟨dst, w, srcs, g, -, hrun⟩ := (exec_of_shape hs).2 hlegal
    rw [hrun, hvec]
    exact execPrefixed_empty hvl ..
  · have hvec : memIsVec s = true := by rw [memIsVec, dataIsV, hclass]; rfl
    rcases List.mem_append.1 hf with hf | hf
    · rw [exec_svLoadForm hf o hhere, svLoad, hvec]
      exact execPrefixed_empty hvl ..
    · rw [exec_svStoreForm hf o hhere, svStore, hvec]
      exact execPrefixed_empty hvl ..

/-! ## Other values of VL and Vstart -/

/-- The state with other values of VL and Vstart. -/
def State.withVector (v k : Nat) (s : State) : State := { s with vl := v, vstart := k }

theorem withVector_asideOfChecks (v k : Nat) : AsideOfChecks (State.withVector v k) := {}

/-- Where the first outcome is a next state, the second is that state with VL and Vstart set. -/
structure Follows (v k : Nat) (a b : Out) : Prop where
  next : ∀ t, a = .next t → b = .next (t.withVector v k)

section
variable {v k : Nat} {s : State}

/-! ## The forms -/

theorem follows_raise (e : Exc) (info : Nat) : Follows v k (raise e info s) (raise e info (s.withVector v k)) := by
  refine ⟨fun t ht => ?_⟩
  rcases raise_cases e info s with ⟨htrap, -⟩ | ⟨-, hstop⟩
  · rw [raise_next ht, raise, show (s.withVector v k).cfg.trapModel = .mmode from htrap]
    rfl
  · rw [hstop] at ht
    cases ht

theorem Follows.legally {a b : Out} (h : Follows v k a b) (ok : Bool) (i : Instr) :
    Follows v k (legally ok i s a) (legally ok i (s.withVector v k) b) := by
  cases ok
  · exact follows_raise ..
  · exact h

theorem Follows.rounded {a b : RoundMode → Out} (h : ∀ m, Follows v k (a m) (b m)) (rm : Rm) (i : Instr) :
    Follows v k (rounded rm i s a) (rounded rm i (s.withVector v k) b) := by
  have hmode : roundingMode (s.withVector v k) rm = roundingMode s rm := by cases rm <;> rfl
  rw [Machine.rounded, Machine.rounded, hmode]
  split
  · exact h _
  · exact follows_raise ..

/-- A scalar prefixed instruction runs index 0 alone (rules R132, R138). -/
theorem follows_execPrefixed {isvec : Bool} (hscalar : isvec = false) {op : SubOp}
    (h : op.Ignores (State.withVector v k)) (p : Pred) : Follows v k (execPrefixed isvec p op s) (execPrefixed isvec p op (s.withVector v k)) := by
  subst hscalar
  refine ⟨fun t ht => ?_⟩
  have hen := ((withVector_asideOfChecks v k).same s).enabled p
  have hloop := subLoop_map h (enabled p s) 1 0 s
  rw [execPrefixed, if_neg Bool.false_ne_true] at ht ⊢
  rw [hen, hloop]
  cases hend : subLoop (enabled p s) op 1 0 s with
  | done u =>
    rw [hend] at ht
    cases ht
    rfl
  | stopped i st u =>
    rw [hend] at ht
    cases st with
    | exception e info => exact (follows_raise e info).next t ht
    | modelFault r => cases ht

/-- A scalar element-wise instruction whose results read elements alone. -/
theorem follows_elementwise {isvec : Bool} (hscalar : isvec = false) {w : Nat} {f : State → Nat → Nat → Fp.Res w}
    (hf : ∀ u, f (u.withVector v k) = f u) (n : Nat) (dst : Opd) (srcs : List SizedOpd) (p : Pred) :
    Follows v k (execPrefixed isvec p (elementwise n dst w srcs f) s)
      (execPrefixed isvec p (elementwise n dst w srcs f) (s.withVector v k)) :=
  follows_execPrefixed hscalar ((withVector_asideOfChecks v k).ignores_elementwise hf n dst srcs) p

theorem Opd.get_withVector (o : Opd) (w n i j : Nat) : o.get (s.withVector v k) w n i j = o.get s w n i j :=
  ((withVector_asideOfChecks v k).same s).get ..

theorem svIntR_follows {o : ROps} (h : (o.vs1 || o.vs2) = false) (f : (w : Nat) → BitVec w → BitVec w → BitVec w) :
    Follows v k (svIntR f o s) (svIntR f o (s.withVector v k)) :=
  follows_elementwise h (fun u => by simp only [Opd.get_withVector]) ..

theorem svIntI_follows {o : IOps} (h : (o.vd || o.vs1) = false) (g : (w : Nat) → BitVec w → BitVec w → BitVec w) :
    Follows v k (svIntI g o s) (svIntI g o (s.withVector v k)) :=
  follows_elementwise h (fun u => by simp only [Opd.get_withVector]) ..

theorem svShift_follows {o : ShOps} (h : (o.vd || o.vs1) = false) (g : (w : Nat) → Nat → BitVec w → BitVec w) :
    Follows v k (svShift g o s) (svShift g o (s.withVector v k)) :=
  follows_elementwise h (fun u => by simp only [Opd.get_withVector]) ..

theorem svUpper_follows {o : UOps} (h : o.vd = false) (x : (xlen : Nat) → BitVec xlen) :
    Follows v k (svUpper x o s) (svUpper x o (s.withVector v k)) :=
  follows_elementwise h (fun _ => rfl) ..

theorem svFr_follows {o : FrOps} (h : (o.vs1 || o.vs2) = false) (file : RegFile) (wd : Nat)
    (f : BitVec o.fmt.width → BitVec o.fmt.width → Fp.Res wd) :
    Follows v k (svFr file wd o f s) (svFr file wd o f (s.withVector v k)) :=
  follows_elementwise h (fun u => by simp only [Opd.get_withVector]) ..

theorem svFi_follows {o : FiOps} (h : (o.vd || o.vs1) = false) (fd : RegFile) (wd : Nat) (fs : RegFile) (ws : Nat)
    (f : BitVec ws → Fp.Res wd) : Follows v k (svFi fd wd fs ws o f s) (svFi fd wd fs ws o f (s.withVector v k)) :=
  follows_elementwise h (fun u => by simp only [Opd.get_withVector]) ..

theorem svFr4_follows {o : Fr4Ops} (h : (o.vs2 || o.vs3) = false)
    (f : BitVec o.fmt.width → BitVec o.fmt.width → BitVec o.fmt.width → Fp.Res o.fmt.width) :
    Follows v k (svFr4 o f s) (svFr4 o f (s.withVector v k)) :=
  follows_elementwise h (fun u => by simp only [Opd.get_withVector]) ..

theorem svLoad_follows (h : memIsVec s = false) (file : RegFile) (w : Nat) (o : MemOps) :
    Follows v k (svLoad file w o s) (svLoad file w o (s.withVector v k)) := by
  have hop := ((withVector_asideOfChecks v k).same s).loadOp file w o
  change Follows v k _ (execPrefixed (memIsVec s) o.vtp.pred (loadOp (dataOpd file o _) w o _) _)
  rw [hop]
  exact follows_execPrefixed h ((withVector_asideOfChecks v k).ignores_loadOp ..) _

theorem svStore_follows (h : memIsVec s = false) (file : RegFile) (w : Nat) (o : MemOps) :
    Follows v k (svStore file w o s) (svStore file w o (s.withVector v k)) := by
  have hop := ((withVector_asideOfChecks v k).same s).storeOp file w o
  change Follows v k _ (execPrefixed (memIsVec s) o.vtp.pred (storeOp (dataOpd file o _) w o _) _)
  rw [hop]
  exact follows_execPrefixed h ((withVector_asideOfChecks v k).ignores_storeOp ..) _

/-! ## Every scalar prefixed instruction -/

/-- A scalar prefixed computation, by its form (rules R132, R149). -/
theorem exec_follows_of_shape {i : Instr} {h : Shape} (hs : i.shape s = some h) (hvec : h.isVec = false) :
    Follows v k (exec i s) (exec i (s.withVector v k)) := by
  cases i with
  | svAdd o | svSub o | svSll o | svSlt o | svSltu o | svXor o | svSrl o | svSra o | svOr o | svAnd o
  | svAddw o | svSubw o | svSllw o | svSrlw o | svSraw o =>
    cases hs
    rw [ROps_shape_isVec] at hvec
    exact svIntR_follows hvec _
  | svMul o | svMulh o | svMulhsu o | svMulhu o | svDiv o | svDivu o | svRem o | svRemu o | svMulw o
  | svDivw o | svDivuw o | svRemw o | svRemuw o =>
    cases hs
    rw [ROps_shape_isVec] at hvec
    exact (svIntR_follows hvec _).legally ..
  | svAddi o | svSlti o | svSltiu o | svXori o | svOri o | svAndi o | svAddiw o =>
    cases hs
    rw [IOps_shape_isVec] at hvec
    exact svIntI_follows hvec _
  | svSlli o | svSrli o | svSrai o | svSlliw o | svSrliw o | svSraiw o =>
    cases hs
    rw [ShOps_shape_isVec] at hvec
    exact (svShift_follows hvec _).legally ..
  | svLui o =>
    cases hs
    rw [UOps_shape_isVec] at hvec
    exact svUpper_follows hvec fun xlen => immUpper xlen o.imm
  | svAuipc o =>
    cases hs
    rw [UOps_shape_isVec] at hvec
    exact svUpper_follows hvec fun xlen => s.pcAt xlen + immUpper xlen o.imm
  | svFaddFmt rm o | svFsubFmt rm o | svFmulFmt rm o | svFdivFmt rm o =>
    cases hs
    rw [FrOps_shape_isVec] at hvec
    exact (Follows.rounded (fun m => svFr_follows hvec ..) ..).legally ..
  | svFsgnjFmt o | svFsgnjnFmt o | svFsgnjxFmt o | svFminFmt o | svFmaxFmt o | svFeqFmt o | svFltFmt o | svFleFmt o =>
    cases hs
    rw [FrOps_shape_isVec] at hvec
    exact (svFr_follows hvec ..).legally ..
  | svFsqrtFmt rm o | svFcvtWFmt rm o | svFcvtWuFmt rm o | svFcvtFmtW rm o | svFcvtFmtWu rm o | svFcvtLFmt rm o
  | svFcvtLuFmt rm o | svFcvtFmtL rm o | svFcvtFmtLu rm o | svFcvtFmtFmt src rm o =>
    cases hs
    rw [FiOps_shape_isVec] at hvec
    exact (Follows.rounded (fun m => svFi_follows hvec ..) ..).legally ..
  | svFmvXFmt o | svFmvFmtX o | svFclassFmt o =>
    cases hs
    rw [FiOps_shape_isVec] at hvec
    exact (svFi_follows hvec ..).legally ..
  | svFmaddFmt rm o | svFmsubFmt rm o | svFnmsubFmt rm o | svFnmaddFmt rm o =>
    cases hs
    rw [Fr4Ops_shape_isVec] at hvec
    exact (Follows.rounded (fun m => svFr4_follows hvec ..) ..).legally ..
  | _ => exact nomatch (show none = some h from hs)

/-- A load or store under LDST_CLASS = literal: the generic one, or IllegalInstruction (rules R162, R166). -/
theorem exec_follows_of_literal (hclass : s.cfg.ldstClass = .literal) {f : MemForm}
    (hf : f ∈ svLoadForms ++ svStoreForms) (o : MemOps) : Follows v k (exec (f.ctor o) s) (exec (f.ctor o) (s.withVector v k)) := by
  have hscalar : memIsVec s = false := by rw [memIsVec, dataIsV, hclass]; rfl
  by_cases hhere : f.Here s
  · have hhere' : f.Here (s.withVector v k) := hhere
    rcases List.mem_append.1 hf with hf | hf
    · rw [exec_svLoadForm hf o hhere, exec_svLoadForm hf o hhere']
      exact svLoad_follows hscalar ..
    · rw [exec_svStoreForm hf o hhere, exec_svStoreForm hf o hhere']
      exact svStore_follows hscalar ..
  · have hhere' : ¬f.Here (s.withVector v k) := hhere
    rw [exec_memForm_of_not_here hf o hhere, exec_memForm_of_not_here hf o hhere']
    exact follows_raise ..

end

/-- Settles O57: by the forms, each the same whatever VL and Vstart are. -/
theorem scalarPrefixed : Obligations.ScalarPrefixed := by
  intro i s t v k hi hexec
  rcases hi with ⟨h, hs, hvec⟩ | ⟨hclass, f, hf, o, rfl⟩
  · exact (exec_follows_of_shape hs hvec).next t hexec
  · exact (exec_follows_of_literal hclass hf o).next t hexec

end Sys2Proof.Machine
end

section
/-! PROOFS. A prefixed store that trapped, executed again (rules R145, R382, R387). Its run from the failing index on is
the rest of the run it would have had with the access admitted: the run below that index checks what it checked before,
and Vstart, the trap registers and TRAP_MODEL are updates aside. -/

namespace Sys2Proof.Machine

/-! ## The rest of a run -/

/-- A loop that ends goes on from any of its indices to the same end. -/
theorem subLoop_rest {en : Nat → Bool} {op : SubOp} {n lo k : Nat} {s x : State} (h : subLoop en op n lo s = .done x)
    (hk : k ≤ n) : subLoop en op (n - k) (lo + k) (stateBefore en op lo s k) = .done x := by
  induction k with
  | zero => exact h
  | succ k ih =>
    have hrest := ih (by omega)
    obtain ⟨m, hm⟩ : ∃ m, n - k = m + 1 := ⟨n - k - 1, by omega⟩
    rw [show n - (k + 1) = m by omega, stateBefore]
    rw [hm, subLoop] at hrest
    split at hrest
    · rename_i hen
      rw [if_pos hen]
      split at hrest
      · exact hrest
      · cases hrest
    · rename_i hen
      rw [if_neg hen]
      exact hrest

/-! ## What a store's check finds -/

theorem Stop.orElse_eq_some {a b : Option Stop} {st : Stop} (h : Stop.orElse a b = some st) :
    a = some st ∨ b = some st := by
  cases a
  · exact .inr h
  · exact .inl h

theorem exists_of_firstStop_eq_some {f : Nat → Option Stop} {n j : Nat} {st : Stop} (h : firstStop f n j = some st) :
    ∃ m, f m = some st := by
  induction n generalizing j with
  | zero => cases h
  | succ n ih =>
    rw [firstStop] at h
    split at h
    · rename_i hj
      exact ⟨j, hj.trans h⟩
    · exact ih h

/-- The fault is the end of a run by an exception (rule R381). -/
def IsTrapped (r : Fault) : Prop := ∃ e info u, r = .trapped e info u

theorem OverrunOnly.not_isTrapped {c : Option Stop} (h : OverrunOnly c) {r : Fault} (hc : c = some (.modelFault r)) :
    ¬IsTrapped r := by
  obtain ⟨file, q, hr⟩ := h.overrun _ hc
  cases hr
  rintro ⟨e, info, u, hu⟩
  cases hu

/-- The model faults of a store are overruns and stores to the text (rules R29b, R64). -/
theorem storeOp_check_not_isTrapped {src : Opd} {w : Nat} {o : MemOps} {s0 u : State} {i : Nat} {r : Fault}
    (h : (storeOp src w o s0).check u i = some (.modelFault r)) : ¬IsTrapped r := by
  rcases Stop.orElse_eq_some h with h | h
  · obtain ⟨j, hj⟩ := exists_of_firstStop_eq_some h
    obtain ⟨a, -, hstop⟩ := storeStop_eq src o s0 u w o.vtp.svlen.count i j
    rw [hstop] at hj
    rcases Stop.orElse_eq_some hj with hj | hj
    · exact (addrStop_overrunOnly ..).not_isTrapped hj
    · rcases Stop.orElse_eq_some hj with hj | hj
      · exact (src.overrunOnly ..).not_isTrapped hj
      · obtain ⟨e, -, he⟩ := Option.map_eq_some_iff.1 hj
        cases he
  · obtain ⟨j, hj⟩ := exists_of_firstStop_eq_some h
    rw [textStop] at hj
    split at hj
    · cases hj
      rintro ⟨e, info, u, hu⟩
      cases hu
    · cases hj

/-! ## The run of a store -/

/-- The loop of the prefixed store that started in `s`, run from `t` over the indices that Vstart and VL leave there. -/
def storeLoop (file : RegFile) (w : Nat) (o : MemOps) (s t : State) : LoopEnd :=
  subLoop (enabled o.vtp.pred s) (storeOp (dataOpd file o s) w o s) (indexCount (memIsVec s) t)
    (firstIndex (memIsVec s) t) t

section
variable {file : RegFile} {w : Nat} {o : MemOps} {s t : State}

/-- A store from another state with the same operands has the same operation. -/
theorem svStore_eq (h : SameOperands s t) : svStore file w o t = finish (memIsVec s) (storeLoop file w o s t) := by
  change execPrefixed (memIsVec t) o.vtp.pred (storeOp (dataOpd file o t) w o t) t = _
  rw [h.memIsVec, h.storeOp, execPrefixed_eq, h.enabled]
  rfl

theorem sameOperands_refl (s : State) : SameOperands s s := ⟨rfl, rfl, rfl, rfl, rfl⟩

theorem OnlyMemOf.sameOperands (h : OnlyMemOf s t) : SameOperands s t := by
  obtain ⟨hc, hx, -⟩ := h.keeps
  have hf : t.fregs = s.fregs := by rw [OnlyMemOf] at h; rw [h]
  exact ⟨by rw [hc], by rw [hc], by rw [hc], hx, hf⟩

/-- The state in which a store that stops at index number `k` leaves the machine: the commits of the lower indices, and
the failing index in Vstart where it is a vector instruction (rules R144, R149). -/
def stoppedAt (file : RegFile) (w : Nat) (o : MemOps) (s : State) (k : Nat) : State :=
  (storeBefore file w o s k).setVstart (if memIsVec s then s.vstart + k else s.vstart)

theorem storeBefore_onlyMemOf (file : RegFile) (w : Nat) (o : MemOps) (s : State) (k : Nat) :
    OnlyMemOf s (storeBefore file w o s k) := storeBefore_onlyMem ..

theorem stoppedAt_cfg (k : Nat) : (stoppedAt file w o s k).cfg = s.cfg := by
  have hcfg := congrArg State.cfg (storeBefore_onlyMemOf file w o s k)
  exact hcfg

theorem stoppedAt_pc (k : Nat) : (stoppedAt file w o s k).pc = s.pc := by
  have hpc := congrArg State.pc (storeBefore_onlyMemOf file w o s k)
  exact hpc

/-- Everything a store can do under TRAP_MODEL = stop: complete, trap at one of its indices, or end in a model fault
(rules R138, R144, R381). -/
theorem svStore_cases (file : RegFile) (w : Nat) (o : MemOps) (hstop : s.cfg.trapModel = .stop) :
    (∃ x, OnlyMemOf s x ∧ storeLoop file w o s s = .done x ∧ svStore file w o s = finish (memIsVec s) (.done x)) ∨
    (∃ k e info, k < indexCount (memIsVec s) s ∧
      storeLoop file w o s s =
        .stopped (firstIndex (memIsVec s) s + k) (.exception e info) (storeBefore file w o s k) ∧
      svStore file w o s = .fault (.trapped e info (stoppedAt file w o s k))) ∨
    ∃ r, ¬IsTrapped r ∧ svStore file w o s = .fault r := by
  rw [svStore_eq (sameOperands_refl s)]
  rcases subLoop_cases (enabled o.vtp.pred s) (storeOp (dataOpd file o s) w o s) (indexCount (memIsVec s) s)
    (firstIndex (memIsVec s) s) s with ⟨hdone, -⟩ | ⟨k, st, hk, -, -, hcheck, hend⟩
  · exact .inl ⟨_, storeBefore_onlyMem .., hdone, congrArg _ hdone⟩
  · obtain ⟨-, -, hv⟩ := (storeBefore_onlyMemOf file w o s k).keeps
    cases st with
    | exception e info =>
      refine .inr (.inl ⟨k, e, info, hk, hend, (congrArg _ hend).trans ((finish_exception hv k e info).trans ?_)⟩)
      exact (raise_raises e info (stoppedAt file w o s k)).1 ((congrArg Config.trapModel (stoppedAt_cfg k)).trans hstop)
    | modelFault r => exact .inr (.inr ⟨r, storeOp_check_not_isTrapped hcheck, congrArg _ hend⟩)

/-! ## The rest of a store -/

/-- The failing index in Vstart leaves the indices from it on. -/
theorem indices_from {isvec : Bool} {k : Nat} (hk : k < indexCount isvec s) (hvl : t.vl = s.vl) :
    indexCount isvec (t.setVstart (if isvec then s.vstart + k else s.vstart)) = indexCount isvec s - k ∧
      firstIndex isvec (t.setVstart (if isvec then s.vstart + k else s.vstart)) = firstIndex isvec s + k := by
  cases isvec
  · obtain rfl : k = 0 := Nat.lt_one_iff.1 hk
    exact ⟨rfl, rfl⟩
  · refine ⟨?_, rfl⟩
    change t.vl - (s.vstart + k) = s.vl - s.vstart - k
    rw [hvl, Nat.sub_sub]

theorem setVstart_asideOfChecks (v : Nat) : AsideOfChecks (State.setVstart · v) := {}

/-- Executed again from where it could have stopped, a store ends as it does from its start (rules R145, R387). -/
theorem svStore_stoppedAt {k : Nat} {x : State} (hk : k < indexCount (memIsVec s) s) (hx : OnlyMemOf s x)
    (hdone : storeLoop file w o s s = .done x) :
    svStore file w o (stoppedAt file w o s k) = finish (memIsVec s) (.done x) := by
  have hmem : OnlyMemOf s (storeBefore file w o s k) := storeBefore_onlyMemOf ..
  have hvl : (storeBefore file w o s k).vl = s.vl := by rw [OnlyMemOf] at hmem; rw [hmem]
  obtain ⟨hxlen, hflen, hclass, hx', hf⟩ := hmem.sameOperands
  have hsame : SameOperands s (stoppedAt file w o s k) := ⟨hxlen, hflen, hclass, hx', hf⟩
  obtain ⟨hcount, hfirst⟩ := indices_from hk hvl
  have hignores := (setVstart_asideOfChecks (if memIsVec s then s.vstart + k else s.vstart)).ignores_storeOp
    (dataOpd file o s) w o s
  have hloop : storeLoop file w o s (stoppedAt file w o s k) =
      .done (x.setVstart (if memIsVec s then s.vstart + k else s.vstart)) := by
    rw [storeLoop, stoppedAt, hcount, hfirst, subLoop_map hignores, storeBefore, subLoop_rest hdone (le_of_lt hk)]
    rfl
  rw [svStore_eq hsame, hloop]
  obtain ⟨-, -, hv⟩ := hx.keeps
  cases memIsVec s
  · rw [if_neg Bool.false_ne_true, ← hv]
    rfl
  · rfl

/-! ## Another platform, another TRAP_MODEL -/

/-- The state on a platform that admits other accesses (rule R58). -/
def State.withBacked (rs : List Region) (s : State) : State := { s with cfg := { s.cfg with backed := rs } }

theorem withBacked_aside (rs : List Region) : Aside (State.withBacked rs) := {}

/-- What the lower indices have stored does not depend on the platform. -/
theorem stoppedAt_withBacked (rs : List Region) (k : Nat) :
    stoppedAt file w o (s.withBacked rs) k = (stoppedAt file w o s k).withBacked rs := by
  have h := withBacked_aside rs
  have hbefore : storeBefore file w o (s.withBacked rs) k = (storeBefore file w o s k).withBacked rs := by
    rw [storeBefore, (h.same s).storeOp, (h.same s).enabled]
    exact stateBefore_map (h.commit_storeOp _ w o s) ..
  rw [stoppedAt, hbefore]
  rfl

/-- The state under TRAP_MODEL = mmode. -/
def State.underMmode (s : State) : State := { s with cfg := { s.cfg with trapModel := .mmode } }

/-- The state under TRAP_MODEL = mmode after a return from a trap that was recorded as in `v` (rule R390). -/
def State.returnedFrom (s v : State) : State :=
  { s.underMmode with mepc := v.mepc, mcause := v.mcause, mtval := v.mtval, mpie := true }

theorem underMmode_asideOfChecks : AsideOfChecks State.underMmode := {}

theorem returnedFrom_asideOfChecks (v : State) : AsideOfChecks (State.returnedFrom · v) := {}

/-- A store after an update aside that keeps VL and Vstart. -/
theorem svStore_map {φ : State → State} (h : AsideOfChecks φ) (hvl : (φ s).vl = s.vl) (hv : (φ s).vstart = s.vstart) :
    svStore file w o (φ s) = finish (memIsVec s) ((storeLoop file w o s s).map φ) := by
  have hcount : indexCount (memIsVec s) (φ s) = indexCount (memIsVec s) s := by simp only [indexCount, hvl, hv]
  have hfirst : firstIndex (memIsVec s) (φ s) = firstIndex (memIsVec s) s := by simp only [firstIndex, hv]
  rw [svStore_eq (h.same s), storeLoop, hcount, hfirst, subLoop_map (h.ignores_storeOp ..)]
  rfl

/-- A store that traps under TRAP_MODEL = stop enters the trap under mmode (rules R381, R390). -/
theorem svStore_underMmode {k : Nat} {e : Exc} {info : Nat} (hend : storeLoop file w o s s =
    .stopped (firstIndex (memIsVec s) s + k) (.exception e info) (storeBefore file w o s k)) :
    svStore file w o s.underMmode = .next ((stoppedAt file w o s k).underMmode.enterTrap e info) := by
  obtain ⟨-, -, hv⟩ := (storeBefore_onlyMemOf file w o s k).keeps
  rw [svStore_map underMmode_asideOfChecks rfl rfl, hend, LoopEnd.map]
  exact finish_exception (s := s) (u := (storeBefore file w o s k).underMmode) hv k e info

/-- Under TRAP_MODEL = stop a store answers a next state only by completing. -/
theorem svStore_next (hstop : s.cfg.trapModel = .stop) (h : svStore file w o s = .next t) :
    ∃ x, OnlyMemOf s x ∧ storeLoop file w o s s = .done x ∧ finish (memIsVec s) (.done x) = .next t := by
  rcases svStore_cases file w o hstop with ⟨x, hx, hdone, hrun⟩ | ⟨k, e, info, -, -, hrun⟩ | ⟨r, -, hrun⟩ <;>
    rw [hrun] at h
  · exact ⟨x, hx, hdone, h⟩
  · cases h
  · cases h

/-- Under TRAP_MODEL = stop a store that traps does so at one of its indices. -/
theorem svStore_trapped (hstop : s.cfg.trapModel = .stop) {e : Exc} {info : Nat}
    (h : svStore file w o s = .fault (.trapped e info t)) :
    ∃ k, k < indexCount (memIsVec s) s ∧ t = stoppedAt file w o s k ∧ storeLoop file w o s s =
      .stopped (firstIndex (memIsVec s) s + k) (.exception e info) (storeBefore file w o s k) := by
  rcases svStore_cases file w o hstop with ⟨x, -, -, hrun⟩ | ⟨k, e', info', hk, hend, hrun⟩ | ⟨r, hr, hrun⟩ <;>
    rw [hrun] at h
  · cases h
  · cases h
    exact ⟨k, hk, rfl, hend⟩
  · cases h
    exact absurd ⟨_, _, _, rfl⟩ hr

/-- A store that completes under TRAP_MODEL = stop completes after the return from a trap. -/
theorem svStore_returnedFrom (hstop : s.cfg.trapModel = .stop) (h : svStore file w o s = .next t) (v : State) :
    svStore file w o (s.returnedFrom v) = .next (t.returnedFrom v) := by
  obtain ⟨x, -, hdone, hfinish⟩ := svStore_next hstop h
  rw [svStore_map (returnedFrom_asideOfChecks v) rfl rfl, hdone, LoopEnd.map]
  generalize memIsVec s = isvec at hfinish
  cases isvec <;> cases hfinish <;> rfl

end

/-! ## The return from the trap -/

/-- An even pc is what `mepc` holds of it (rule R390). -/
theorem and_not_one_of_even {a : Word} (h : a.toNat % 2 = 0) : a &&& ~~~1#64 = a := by
  have hhalf : a.toNat / 2 * 2 = a.toNat := Nat.div_mul_cancel (Nat.dvd_of_mod_eq_zero h)
  calc a &&& ~~~1#64 = BitVec.ofNat 64 (a.toNat / 2 * 2) := clear_low a 1
    _ = a := by rw [hhalf, BitVec.ofNat_toNat, BitVec.setWidth_eq]

/-- MRET after a trap that was entered at an even pc leaves of it what the trap recorded (rule R390). -/
theorem trapReturn_enterTrap {u : State} (hpc : u.pc.toNat % 2 = 0) (e : Exc) (info : Nat) :
    (u.underMmode.enterTrap e info).trapReturn = u.returnedFrom (u.underMmode.enterTrap e info) := by
  have hback : (u.pc &&& ~~~1#64) &&& ~~~1#64 = u.pc := by rw [and_not_one_of_even hpc, and_not_one_of_even hpc]
  calc (u.underMmode.enterTrap e info).trapReturn
      = { u.returnedFrom (u.underMmode.enterTrap e info) with pc := (u.pc &&& ~~~1#64) &&& ~~~1#64 } := rfl
    _ = u.returnedFrom (u.underMmode.enterTrap e info) := by rw [hback]; rfl

/-- A prefixed store that answers a next state under TRAP_MODEL = stop is one that the machine has. -/
theorem here_of_next {f : MemForm} (hf : f ∈ svStoreForms) {o : MemOps} {s t : State} (hstop : s.cfg.trapModel = .stop)
    (h : exec (f.ctor o) s = .next t) : f.Here s := by
  by_contra hnot
  rw [exec_memForm_of_not_here (List.mem_append_right _ hf) o hnot, (raise_raises ..).1 hstop] at h
  cases h

/-- Settles O54: executed again, the store is the rest of its run; trap entry and MRET are an update aside. -/
theorem svStoreResumes : Obligations.SvStoreResumes := by
  intro f hf o s u t e info backed hstop htrap hnext
  change exec (f.ctor o) (s.withBacked backed) = .next t at hnext
  have hexec (y : State) (hy : f.Here y) : exec (f.ctor o) y = svStore f.file f.w o y := exec_svStoreForm hf o hy
  have hhere : f.Here s := here_of_next (s := s.withBacked backed) hf hstop hnext
  have htcfg : t.cfg = { s.cfg with backed := backed } := (onlyCsrInstructions _ _ _ hnext).1
  rw [hexec s hhere] at htrap
  rw [hexec (s.withBacked backed) hhere] at hnext
  obtain ⟨k, hk, hu, hend⟩ := svStore_trapped hstop htrap
  obtain ⟨x, hx, hdone, hfinish⟩ := svStore_next (s := s.withBacked backed) hstop hnext
  have hresumed : svStore f.file f.w o (u.withBacked backed) = .next t := by
    rw [hu, ← stoppedAt_withBacked, svStore_stoppedAt (s := s.withBacked backed) hk hx hdone, hfinish]
  have hucfg : u.cfg = s.cfg := hu ▸ stoppedAt_cfg k
  have hustop : u.cfg.trapModel = .stop := (congrArg Config.trapModel hucfg).trans hstop
  have hupc : u.pc = s.pc := hu ▸ stoppedAt_pc k
  have hhereu : f.Here u := by rwa [MemForm.Here, hucfg]
  refine ⟨?_, fun hpc m c d hc hd hm => ?_⟩
  · rw [← hucfg]
    exact (hexec (u.withBacked backed) hhereu).trans hresumed
  · subst hc hd hm
    refine ⟨u.underMmode.enterTrap e info, _, ?entered, rfl, ?resumed⟩
    case entered =>
      rw [hu]
      exact (hexec s.underMmode hhere).trans (svStore_underMmode hend)
    case resumed =>
      rw [trapReturn_enterTrap (hupc ▸ hpc), ← hucfg]
      refine (hexec ((u.withBacked backed).returnedFrom (u.underMmode.enterTrap e info)) hhereu).trans ?_
      rw [svStore_returnedFrom (s := u.withBacked backed) hustop hresumed, State.returnedFrom, State.underMmode,
        htcfg, hucfg]

end Sys2Proof.Machine
end

section
/-! PROOFS. What the machine lacks (rules R166, R194, R260, R265, R267, R385). The meaning of such an instruction begins
with the check of the parameters, and then of the rounding mode where it takes one, before it reads VL or a register. -/

namespace Sys2Proof.Machine

/-! ## The checks that an instruction begins with -/

/-- A form whose parameters the machine does not admit (rules R383, R385). -/
theorem legally_illegal {ok : Bool} (h : ok = false) (i : Instr) (s : State) (k : Out) :
    Illegal (legally ok i s k) s i := by
  subst h
  exact raise_raises ..

/-- A reserved `frm` selects no rounding mode (rules R110, R265). -/
theorem roundingMode_dyn_of_reserved {s : State} (h : 4 < s.frm.toNat) : roundingMode s .dyn = none := by
  rcases roundingMode_cases s .dyn with ⟨hcan, -⟩ | ⟨-, hnone⟩
  · exact absurd (of_decide_eq_true hcan) (not_le.2 h)
  · exact hnone

/-- A form under the dynamic rounding mode, where `frm` is reserved (rule R265). -/
theorem legally_rounded_dyn_illegal {s : State} (h : 4 < s.frm.toNat) (ok : Bool) (i : Instr) (k : RoundMode → Out) :
    Illegal (legally ok i s (rounded .dyn i s k)) s i := by
  rw [rounded, roundingMode_dyn_of_reserved h]
  cases ok <;> exact raise_raises ..

theorem fmtFits_of_wider {s : State} {f : Fmt} (h : s.cfg.fbits < f.width) : fmtFits s f = false :=
  decide_eq_false (not_le.2 h)

/-! ## The instructions -/

/-- Settles O22: what each instruction of a list asks of the parameters has the missing part as a conjunct. -/
theorem absentInstructions : Obligations.AbsentInstructions := by
  intro rd rs1 rs2 imm f rm o m p s
  refine ⟨fun hM i hi => ?noM, fun hx i hi => ?rv32, fun hf i hi => ?moves, fun hp i hi => ?svMoves⟩
  case noM => fin_cases hi <;> exact legally_illegal (by simp [hM]) ..
  case rv32 => fin_cases hi <;> exact legally_illegal (by simp [hx]) ..
  case moves => fin_cases hi <;> exact legally_illegal (by simp [hf]) ..
  case svMoves => fin_cases hi <;> exact legally_illegal (by simp [hp]) ..

/-- Settles O32: what each instruction asks of the parameters has the format's fit as a conjunct, and no rounding mode
is to be had under a reserved `frm`. -/
theorem fpIllegal : Obligations.FpIllegal := by
  intro f g rm rd rs1 rs2 rs3 imm m o p q s
  refine ⟨fun hf i hi => ?wide, fun i hi hw => ?loadsStores, fun ho i hi => ?wideFr, fun hp i hi => ?wideFi,
    fun hq i hi => ?wideFr4, fun hfrm i hi => ?reserved⟩
  case wide => fin_cases hi <;> exact legally_illegal (by simp [fmtFits_of_wider hf]) ..
  case loadsStores => fin_cases hi <;> exact legally_illegal (decide_eq_false (not_le.2 hw)) ..
  case wideFr => fin_cases hi <;> exact legally_illegal (fmtFits_of_wider ho) ..
  case wideFi => fin_cases hi <;> exact legally_illegal (by simp [fmtFits_of_wider hp]) ..
  case wideFr4 => fin_cases hi <;> exact legally_illegal (fmtFits_of_wider hq) ..
  case reserved => fin_cases hi <;> exact legally_rounded_dyn_illegal hfrm ..

end Sys2Proof.Machine
end

section
/-! PROOFS. The unprefixed M instructions (rules R194, R531 to R543): each is the register form of rule R500 with an
element function, which the XLEN-bit instructions take at XLEN bits and the word instructions at 32. -/

namespace Sys2Proof.Machine

/-! ## The register form (rule R500) -/

section
variable {s : State} {rs1 rs2 : BitVec 5}

/-- The register form of an instruction that the machine has, its element function `f` told by a formula `v`. -/
theorem legally_baseR_givesX {ok : Bool} (hok : ok = true) (i : Instr) (rd : BitVec 5)
    {f : (w : Nat) → BitVec w → BitVec w → BitVec w} {v : BitVec s.cfg.xbits}
    (hf : f s.cfg.xbits (s.xr rs1) (s.xr rs2) = v) : GivesX (legally ok i s (baseR f rd rs1 rs2 s)) s rd v := by
  rw [legally_of_legal hok, ← hf]
  exact s.retireX_sets rd _

/-- The register form on the low words (rule R500), its 32-bit function `f` told by a formula `v`. -/
theorem legally_baseR_word_givesX {ok : Bool} (hok : ok = true) (i : Instr) (rd : BitVec 5)
    {f : BitVec 32 → BitVec 32 → BitVec 32} {v : BitVec 32}
    (hf : f ((s.xr rs1).setWidth 32) ((s.xr rs2).setWidth 32) = v) :
    GivesX (legally ok i s (baseR (fun _ => Alu.word f) rd rs1 rs2 s)) s rd (v.signExtend s.cfg.xbits) :=
  legally_baseR_givesX hok i rd (congrArg (BitVec.signExtend s.cfg.xbits) hf)

end

/-! ## The instructions -/

/-- Settles O20: each instruction is the register form with its element function at XLEN bits. -/
theorem multiplyDivide : Obligations.MultiplyDivide := by
  intro rd rs1 rs2 s hm
  refine ⟨?mul, ?mulh, ?mulhsu, ?mulhu, ?div, ?divu, ?rem, ?remu⟩
  case mul => exact legally_baseR_givesX hm _ rd rfl
  case mulh => exact legally_baseR_givesX hm _ rd (Alu.mulh_eq ..)
  case mulhsu => exact legally_baseR_givesX hm _ rd (Alu.mulhsu_eq ..)
  case mulhu => exact legally_baseR_givesX hm _ rd (Alu.mulhu_eq ..)
  case div => exact legally_baseR_givesX hm _ rd (Alu.div_eq ..)
  case divu => exact legally_baseR_givesX hm _ rd (Alu.divu_eq ..)
  case rem => exact legally_baseR_givesX hm _ rd (Alu.rem_eq ..)
  case remu => exact legally_baseR_givesX hm _ rd (Alu.remu_eq ..)

/-- Settles O21: each instruction is the register form with its element function at 32 bits, on the low words. -/
theorem multiplyDivideWord : Obligations.MultiplyDivideWord := by
  intro rd rs1 rs2 s a b hx hm ha hb
  subst ha hb
  have hok : (s.cfg.xlen == .rv64 && s.cfg.hasM) = true := by rw [hx, hm]; rfl
  refine ⟨?mulw, ?divw, ?divuw, ?remw, ?remuw⟩
  case mulw => exact legally_baseR_word_givesX hok _ rd rfl
  case divw => exact legally_baseR_word_givesX hok _ rd (Alu.div_eq ..)
  case divuw => exact legally_baseR_word_givesX hok _ rd (Alu.divu_eq ..)
  case remw => exact legally_baseR_word_givesX hok _ rd (Alu.rem_eq ..)
  case remuw => exact legally_baseR_word_givesX hok _ rd (Alu.remu_eq ..)

end Sys2Proof.Machine
end

section
/-! PROOFS. The unprefixed FP instructions (rules R264, R265, R272 to R276, R292, R360, R561 to R573, R583 to R589): how
an admitted one retires, with and without a rounding mode, and sign injection bit by bit. An instruction is then its
result. -/

namespace Sys2Proof.Machine

/-! ## How an admitted instruction retires (rules R264, R265, R360) -/

section
variable {s : State} {ok : Bool} (hok : ok = true)
include hok

/-- A result for the FP file, of an instruction that the machine has. -/
theorem legally_retireF_gives (i : Instr) (rd : BitVec 5) {w : Nat} (r : Fp.Res w) :
    GivesBoxed (legally ok i s (s.retireF rd r)) s rd r := by
  rw [legally_of_legal hok]
  exact s.retireF_sets rd r

/-- A result for the integer file, of an instruction that the machine has. -/
theorem legally_retireXFlags_gives (i : Instr) (rd : BitVec 5) (r : Fp.Res s.cfg.xbits) :
    GivesXFlags (legally ok i s (s.retireXFlags rd r)) s rd r.1 r.2 := by
  rw [legally_of_legal hok]
  exact s.retireXFlags_sets rd r

/-- A comparison's 0 or 1, of an instruction that the machine has (rule R277). -/
theorem legally_retire_ofBool_gives (i : Instr) (rd : BitVec 5) (r : Bool × BitVec 5) :
    GivesXFlags (legally ok i s (s.retireXFlags rd (Fp.ofBool s.cfg.xbits r))) s rd (if r.1 then 1 else 0) r.2 := by
  rw [Fp.ofBool_eq]
  exact legally_retireXFlags_gives hok i rd _

/-- A rounded result for the FP file, under the rounding mode that `rm` selects. -/
theorem legally_rounded_retireF_gives {rm : Rm} {m : RoundMode} (hm : Rounds s rm m) (i : Instr) (rd : BitVec 5)
    {w : Nat} (r : RoundMode → Fp.Res w) :
    GivesBoxed (legally ok i s (rounded rm i s fun m => s.retireF rd (r m))) s rd (r m) := by
  rw [legally_rounded hm hok]
  exact s.retireF_sets rd (r m)

end

/-! ## Sign injection (rules R261, R272 to R274) -/

namespace Fp

section
variable {w : Nat} (a b : BitVec w)

/-- `v` has the sign bit `sign`, and `a`'s bits below it. -/
def IsSignedCopy (v a : BitVec w) (sign : Bool) : Prop := v.msb = sign ∧ ∀ k < w - 1, v.getLsbD k = a.getLsbD k

theorem isSignedCopy_self : IsSignedCopy a a a.msb := ⟨rfl, fun _ _ => rfl⟩

theorem getLsbD_fpNeg (k : Nat) : (fpNeg a).getLsbD k = (a.getLsbD k ^^ (decide (k < w) && decide (w - 1 = k))) := by
  rw [fpNeg, BitVec.getLsbD_xor, BitVec.getLsbD_ofNat, Nat.testBit_two_pow]

theorem isSignedCopy_fpNeg (hw : 0 < w) : IsSignedCopy (fpNeg a) a (!a.msb) := by
  constructor
  · rw [BitVec.msb_eq_getLsbD_last, BitVec.msb_eq_getLsbD_last, getLsbD_fpNeg]
    simp [hw]
  · intro k hk
    simp [getLsbD_fpNeg, hk.ne']

variable (hw : 0 < w)
include hw

theorem sgnj_isSignedCopy : IsSignedCopy (sgnj a b) a b.msb := by
  rw [sgnj, signOf, signOf]
  split
  case isTrue hsame => exact hsame ▸ isSignedCopy_self a
  case isFalse hdiff => exact Bool.eq_not_of_ne (Ne.symm hdiff) ▸ isSignedCopy_fpNeg a hw

theorem sgnjn_isSignedCopy : IsSignedCopy (sgnjn a b) a (!b.msb) := by
  rw [sgnjn, signOf, signOf]
  split
  case isTrue hsame => exact hsame ▸ isSignedCopy_fpNeg a hw
  case isFalse hdiff => exact Bool.eq_not_of_ne hdiff ▸ isSignedCopy_self a

theorem sgnjx_isSignedCopy : IsSignedCopy (sgnjx a b) a (a.msb ^^ b.msb) := by
  rw [sgnjx, signOf]
  cases b.msb with
  | true => simpa using isSignedCopy_fpNeg a hw
  | false => simpa using isSignedCopy_self a

end

end Fp

theorem fmtWidth_pos (f : Fmt) : 0 < f.width := by cases f <;> decide

/-! ## The instructions -/

/-- Settles O28: the machine has the format, and each instruction retires its rounded result. -/
theorem fpArithmetic : Obligations.FpArithmetic := by
  intro f rm m rd rs1 rs2 rs3 s a b c hfmt hm ha hb hc
  subst ha hb hc
  have hok : fmtFits s f = true := decide_eq_true hfmt
  refine ⟨?add, ?sub, ?mul, ?div, ?sqrt, ?madd, ?msub, ?nmsub, ?nmadd⟩
  case add => exact legally_rounded_retireF_gives hok hm _ rd fun m => s.num.add f m _ _
  case sub => exact legally_rounded_retireF_gives hok hm _ rd fun m => s.num.sub f m _ _
  case mul => exact legally_rounded_retireF_gives hok hm _ rd fun m => s.num.mul f m _ _
  case div => exact legally_rounded_retireF_gives hok hm _ rd fun m => s.num.div f m _ _
  case sqrt => exact legally_rounded_retireF_gives hok hm _ rd fun m => s.num.sqrt f m _
  case madd | msub | nmsub | nmadd => exact legally_rounded_retireF_gives hok hm _ rd fun m => s.num.fma f m _ _ _

/-- Settles O29: each instruction retires its selection, and a sign injection changes the sign bit alone. -/
theorem fpSelect : Obligations.FpSelect := by
  intro f rd rs1 rs2 s a b hfmt ha hb
  subst ha hb
  have hok : fmtFits s f = true := decide_eq_true hfmt
  refine ⟨?sgnj, ?sgnjn, ?sgnjx, ?min, ?max⟩
  case sgnj => exact ⟨_, legally_retireF_gives hok _ rd _, Fp.sgnj_isSignedCopy _ _ (fmtWidth_pos f)⟩
  case sgnjn => exact ⟨_, legally_retireF_gives hok _ rd _, Fp.sgnjn_isSignedCopy _ _ (fmtWidth_pos f)⟩
  case sgnjx => exact ⟨_, legally_retireF_gives hok _ rd _, Fp.sgnjx_isSignedCopy _ _ (fmtWidth_pos f)⟩
  case min | max => exact legally_retireF_gives hok _ rd _

/-- Settles O30: each instruction retires its integer result; the moves also need a format that fits XLEN, and take the
register's bits as they stand. -/
theorem fpToInteger : Obligations.FpToInteger := by
  intro f rd rs1 rs2 s a b hfmt ha hb
  subst ha hb
  have hok : fmtFits s f = true := decide_eq_true hfmt
  refine ⟨?eq, ?lt, ?le, ?classify, fun hx => ?moves⟩
  case eq | lt | le => exact legally_retire_ofBool_gives hok _ rd _
  case classify => exact legally_retireXFlags_gives hok _ rd (Fp.noFlags _)
  case moves =>
    have hokx : (fmtFits s f && decide (f.width ≤ s.cfg.xbits)) = true := by rw [hok, decide_eq_true hx]; rfl
    exact ⟨legally_retireXFlags_gives hokx _ rd (Fp.noFlags _), legally_retireF_gives hokx _ rd (Fp.noFlags _)⟩

end Sys2Proof.Machine
end

section
/-! PROOFS. SETVL. Its word under the machine's pattern at reset is an I-type word of an opcode that no fixed encoding
has, so it decodes to its operands (rules R312, R315); its meaning is the new length, written to VL and x[rd], or the
exception of step 1 (rules R311 to R316). -/

namespace Sys2Proof

/-! ## Words of an open pattern (rule R315) -/

/-- The pattern is tried where the fixed encodings have no instruction (log entry 17). -/
theorem decodeWord_of_selects {enc : SetvlEncoding} {w : Nat} {e : DecodeError}
    (hfixed : decodeFixed enc.len w = .error e) (hselects : enc.selects w = true) :
    decodeWord enc enc.len w = .ok (enc.instr w) := by
  rw [decodeWord, hfixed]
  exact if_pos ⟨rfl, hselects⟩

theorem wellFormed_setvl_iff {enc : SetvlEncoding} {rd rs1 : BitVec 5} {imm : SetvlImm} :
    (Instr.setvl rd rs1 imm).wellFormed enc = true ↔
      enc.selects imm.insn = true ∧ enc.operands imm.insn = (rd, rs1, imm.value) ∧ imm.insn < 2 ^ (8 * enc.len) := by
  show (enc.selects imm.insn && enc.operands imm.insn == (rd, rs1, imm.value) &&
    decide (imm.insn < 2 ^ (8 * enc.len))) = true ↔ _
  simp [and_assoc]

/-- A well-formed SETVL is the instruction that its word holds. -/
theorem instr_insn_of_wellFormed {enc : SetvlEncoding} {rd rs1 : BitVec 5} {imm : SetvlImm}
    (h : (Instr.setvl rd rs1 imm).wellFormed enc = true) : enc.instr imm.insn = .setvl rd rs1 imm := by
  obtain ⟨-, hoperands, -⟩ := wellFormed_setvl_iff.1 h
  rw [SetvlEncoding.instr, hoperands]

/-- A well-formed SETVL decodes from its bytes where its word announces its length and no fixed encoding claims it. -/
theorem decode_leBytes_setvl {enc : SetvlEncoding} {rd rs1 : BitVec 5} {imm : SetvlImm} {e : DecodeError}
    (hwf : (Instr.setvl rd rs1 imm).wellFormed enc = true) (hlen : instrLen (imm.insn % 2 ^ 16) = some enc.len)
    (hfixed : decodeFixed enc.len imm.insn = .error e) (rest : List Byte) :
    decode enc (leBytes enc.len imm.insn ++ rest) = .ok (.setvl rd rs1 imm, rest) := by
  obtain ⟨hselects, -, hlt⟩ := wellFormed_setvl_iff.1 hwf
  refine decode_leBytes hlen hlt ?_ rest
  rw [decodeWord_of_selects hfixed hselects, instr_insn_of_wellFormed hwf]

/-! ## The word under the pattern at reset (log entry 3) -/

/-- A field in one piece is a slice of the word. -/
theorem gather_singleton (w : BitVec 32) (pos bits : Nat) :
    gather [{ pos := pos, bits := bits, lo := 0 }] w.toNat = (w.extractLsb' pos bits).toNat := by
  simp [gather, Nat.shiftRight_eq_div_pow]

/-- An operand in one piece is shifted to its place. -/
theorem scatter_singleton {bits : Nat} (v : BitVec bits) (pos : Nat) :
    scatter [{ pos := pos, bits := bits, lo := 0 }] v.toNat = v.toNat <<< pos := by
  simp [scatter, Nat.shiftLeft_eq, Nat.mod_eq_of_lt v.isLt]

theorem wordI_and (imm imm' : BitVec 12) (rs1 rs1' : BitVec 5) (f3 f3' : BitVec 3) (rd rd' : BitVec 5)
    (op op' : BitVec 7) : wordI imm rs1 f3 rd op &&& wordI imm' rs1' f3' rd' op' =
      wordI (imm &&& imm') (rs1 &&& rs1') (f3 &&& f3') (rd &&& rd') (op &&& op') := by
  show (imm ++ (rs1 ++ (f3 ++ (rd ++ op)))) &&& (imm' ++ (rs1' ++ (f3' ++ (rd' ++ op')))) = _
  rw [BitVec.and_append, BitVec.and_append, BitVec.and_append, BitVec.and_append]
  rfl

section
variable (rd rs1 : BitVec 5) (imm : BitVec 12)

/-- The I-type word of SETVL under the pattern at reset: opcode custom-0, f3 = 0. -/
def custom0Word : BitVec 32 := wordI imm rs1 0#3 rd 0b0001011#7

theorem setvlWord_custom0 :
    setvlWord SetvlEncoding.custom0 rd rs1 imm.toNat = (custom0Word rd rs1 imm).toNat := by
  have hfields : setvlWord SetvlEncoding.custom0 rd rs1 imm.toNat =
      11 ||| (rd.toNat <<< 7 ||| (rs1.toNat <<< 15 ||| imm.toNat <<< 20)) := by
    rw [← scatter_singleton rd, ← scatter_singleton rs1, ← scatter_singleton imm]
    rfl
  rw [hfields]
  show _ = (imm ++ (rs1 ++ (0#3 ++ (rd ++ 0b0001011#7)))).toNat
  rw [BitVec.toNat_append, BitVec.toNat_append, BitVec.toNat_append, BitVec.toNat_append]
  simp [Nat.or_comm, Nat.or_left_comm, Nat.or_assoc]

/-- The word has the pattern: opcode and f3 are the bits under the mask. -/
theorem selects_custom0Word : SetvlEncoding.custom0.selects (custom0Word rd rs1 imm).toNat = true := by
  have hmask : SetvlEncoding.custom0.mask = (wordI 0 0 0b111 0 0b1111111).toNat := by decide
  have hpattern : SetvlEncoding.custom0.pattern = (wordI 0 0 0 0 0b0001011).toNat := by decide
  rw [SetvlEncoding.selects, hmask, hpattern, ← BitVec.toNat_and, custom0Word, wordI_and]
  simp

theorem operands_custom0Word :
    SetvlEncoding.custom0.operands (custom0Word rd rs1 imm).toNat = (rd, rs1, imm.toNat) := by
  obtain ⟨-, hrd, -, hrs1, himm⟩ := wordI_fields (w := custom0Word rd rs1 imm) rfl
  rw [immI] at himm
  simp only [SetvlEncoding.operands, SetvlEncoding.custom0, gather_singleton, hrd, hrs1, himm, BitVec.ofNat_toNat,
    BitVec.setWidth_eq]

/-- Every SETVL of the custom-0 word is well-formed. -/
theorem wellFormed_custom0Word :
    (Instr.setvl rd rs1 ⟨imm.toNat, (custom0Word rd rs1 imm).toNat⟩).wellFormed SetvlEncoding.custom0 = true :=
  wellFormed_setvl_iff.2 ⟨selects_custom0Word .., operands_custom0Word .., (custom0Word rd rs1 imm).isLt⟩

/-- The word announces four bytes (rule R66). -/
theorem instrLen_custom0Word : instrLen ((custom0Word rd rs1 imm).toNat % 2 ^ 16) = some 4 := by
  obtain ⟨hop, -⟩ := wordI_fields (w := custom0Word rd rs1 imm) rfl
  have hlow : (custom0Word rd rs1 imm).toNat % 128 = 11 := by
    simpa using congrArg BitVec.toNat hop
  exact Machine.instrLen_eq_some_iff.2 (.inr (.inl ⟨rfl, by omega, by omega⟩))

/-- No fixed encoding has the opcode custom-0. -/
theorem decodeFixed_custom0Word : decodeFixed 4 (custom0Word rd rs1 imm).toNat = .error .reservedOpcode := by
  show decode32 (BitVec.ofNat 32 (custom0Word rd rs1 imm).toNat) = _
  rw [BitVec.ofNat_toNat, BitVec.setWidth_eq]
  simp [decode32, wordI_fields (w := custom0Word rd rs1 imm) rfl]

end

/-- Settles O2: a word that no fixed encoding claims is left to the pattern, and the custom-0 word is such a word. -/
theorem decodeOfEncodeSetvl : Obligations.DecodeOfEncodeSetvl := by
  refine ⟨fun enc i rest e hwf hsetvl hlen hfixed => ?anyPattern, fun rd rs1 imm rest himm => ?atReset⟩
  case anyPattern =>
    obtain ⟨rd, rs1, imm, rfl⟩ := hsetvl
    exact decode_leBytes_setvl hwf hlen hfixed rest
  case atReset =>
    obtain ⟨imm, rfl⟩ : ∃ v : BitVec 12, v.toNat = imm := ⟨BitVec.ofNat 12 imm, Nat.mod_eq_of_lt himm⟩
    rw [setvlWord_custom0]
    exact decode_leBytes_setvl (wellFormed_custom0Word rd rs1 imm) (instrLen_custom0Word ..)
      (decodeFixed_custom0Word ..) rest

namespace Machine

/-! ## The meaning (rule R311) -/

section
variable {rd rs1 : BitVec 5} {imm : SetvlImm} {s : State}

/-- The new length that SETVL computes in `s` (steps 2 to 5). -/
def setvlLength (rs1 : BitVec 5) (imm : SetvlImm) (s : State) : Nat :=
  newVl s.cfg (rs1 == 0#5) imm.value (s.xr rs1).toNat

theorem setvlLength_le (h : imm.value ≤ s.cfg.xbits) : setvlLength rs1 imm s ≤ s.cfg.xbits := newVl_le h ..

/-- VL and x[rd] take the new length and the pc moves past the instruction. -/
theorem exec_setvl_of_le (h : imm.value ≤ s.cfg.xbits) : exec (.setvl rd rs1 imm) s =
    .next (((s.setVl (setvlLength rs1 imm s)).putX s.cfg.xbits rd.toNat
      (BitVec.ofNat _ (setvlLength rs1 imm s))).advance s.cfg.setvlEnc.len) :=
  legally_of_legal (decide_eq_true h) ..

/-- Step 1: an immediate above XLEN is illegal, and the exception records the word as it was fetched (log entry 9). -/
theorem exec_setvl_of_gt (h : s.cfg.xbits < imm.value) :
    Raises (exec (.setvl rd rs1 imm) s) s .illegalInstruction imm.insn :=
  legally_illegal (decide_eq_false (not_le.2 h)) (.setvl rd rs1 imm) ..

end

/-- What setting VL, writing x[rd] and moving past an instruction of `len` bytes does to a state. -/
theorem State.setVl_putX_advance (s : State) (n : Nat) (rd : BitVec 5) (v : BitVec s.cfg.xbits) (len : Nat)
    {t : State} (ht : t = ((s.setVl n).putX s.cfg.xbits rd.toNat v).advance len) :
    t = { s with pc := t.pc, xregs := t.xregs, vl := n } ∧
      t.getX s.cfg.xbits rd.toNat = (if rd = 0#5 then 0 else v) ∧
      (∀ q, q ≠ rd.toNat → t.getX s.cfg.xbits q = s.getX s.cfg.xbits q) ∧ PastPc s t len := by
  subst ht
  refine ⟨?_, ?_, fun q hq => ?_, ?_⟩
  · apply State.ext' <;> simp
  · rw [State.getX_advance]
    exact (s.setVl n).getX_putX_if rd v
  · rw [State.getX_advance]
    calc ((s.setVl n).putX s.cfg.xbits rd.toNat v).getX s.cfg.xbits q
        = (s.setVl n).getX s.cfg.xbits q := (s.setVl n).getX_putX_ne v hq
      _ = s.getX s.cfg.xbits q := State.getX_congr s (s.setVl n) rfl rfl ..
  · exact s.advance_past_of _ len (State.putX_cfg ..) (State.putX_pc ..)

/-- Settles O42: an immediate within XLEN gives the length of steps 2 to 5, one above it the exception of step 1. -/
theorem setvlResult : Obligations.SetvlResult := by
  intro rd rs1 imm insn s avl n havl hn
  have hlength : setvlLength rs1 ⟨imm, insn⟩ s = n := by
    subst havl hn
    by_cases hx0 : rs1 = 0#5
    · rw [if_pos hx0, setvlLength, beq_iff_eq.2 hx0]
      rfl
    · rw [if_neg hx0, setvlLength, beq_false_of_ne hx0]
      rfl
  refine ⟨fun hle => ⟨_, exec_setvl_of_le hle, ?_⟩, fun hgt => exec_setvl_of_gt hgt⟩
  rw [hlength]
  exact s.setVl_putX_advance n rd _ _ rfl

/-- Settles O43: the immediate is within XLEN, so the new length is. -/
theorem setvlLegal : Obligations.SetvlLegal := by
  intro rd rs1 imm insn s t hle hexec
  rw [exec_setvl_of_le hle] at hexec
  obtain rfl := Host.Outcome.next.inj hexec
  simpa using setvlLength_le hle

end Machine

end Sys2Proof
end

section
/-! PROOFS. Control transfer, the FP conversions and the system instructions, unprefixed (rules R340 to R347, R361 to
R374, R390, R574 to R582): what a write of the pc does beside a register write, what a CSR access reads and writes, and
the two outcomes of an exception. -/

namespace Sys2Proof.Machine

/-! ## Fences (rules R366, R367) -/

/-- Settles O35: a fence moves past itself. -/
theorem fences : Obligations.Fences := by
  intro rd rs1 imm s
  refine ⟨?fence, ?fenceI⟩
  case fence | fenceI => exact ⟨_, rfl, s.advance_onlyPc 4, s.advance_past 4⟩

/-! ## Jumps (rules R340, R341) -/

/-- Bit 0 cleared, as a JALR target has it. -/
theorem toNat_and_not_one {w : Nat} (v : BitVec w) : (v &&& ~~~(BitVec.ofNat w 1)).toNat = v.toNat / 2 * 2 := by
  apply Nat.eq_of_testBit_eq
  intro i
  rw [← pow_one 2, Nat.testBit_mul_two_pow, Nat.testBit_div_two_pow, BitVec.testBit_toNat, BitVec.testBit_toNat,
    BitVec.getLsbD_and, BitVec.getLsbD_not, BitVec.getLsbD_ofNat]
  cases i with
  | zero => simp
  | succ i =>
    have hlow (h : v.getLsbD (i + 1) = true) : i + 1 < w := BitVec.lt_of_getLsbD h
    simpa [Nat.testBit_succ] using hlow

@[simp] theorem State.getX_goto (s : State) (n : Nat) (v : BitVec n) (w r : Nat) :
    (s.goto n v).getX w r = s.getX w r := State.getX_congr s (s.goto n v) rfl rfl w r

/-- A jump: the link value in x[rd], and the target in the pc. -/
theorem State.putX_goto_jumps (s : State) (rd : BitVec 5) (link target : BitVec s.cfg.xbits) {t : State}
    (ht : t = (s.putX s.cfg.xbits rd.toNat link).goto s.cfg.xbits target) :
    t.pc.toNat = target.toNat ∧ t.getX s.cfg.xbits rd.toNat = (if rd = 0#5 then 0 else link) ∧
      OnlyX s t rd.toNat := by
  subst ht
  refine ⟨s.goto_pc_toNat target, ?_, ?_, fun q hq => ?_⟩
  · simpa using s.getX_putX_if rd link
  · apply State.ext' <;> simp
  · simpa using s.getX_putX_ne link hq

/-- Settles O33: both jumps write the link and then the pc; the target of JALR is computed before x[rd] is written. -/
theorem jumps : Obligations.Jumps := by
  intro rd rs1 off imm s
  refine ⟨⟨_, rfl, s.putX_goto_jumps rd _ _ rfl⟩, ⟨_, rfl, ?_⟩⟩
  obtain ⟨hpc, hlink, honly⟩ := s.putX_goto_jumps rd (s.pcx + BitVec.ofNat _ 4)
    ((s.xr rs1 + s.imm imm) &&& ~~~(BitVec.ofNat _ 1)) rfl
  exact ⟨hpc.trans (toNat_and_not_one _), hlink, honly⟩

/-! ## Conditional branches (rules R342 to R347) -/

/-- A branch goes to its target where its test holds, and past itself where it does not. -/
theorem branchIf_branches {taken : Bool} {p : Prop} (h : taken = true ↔ p) (imm : BitVec 12) (s : State) :
    Branches (branchIf taken imm s) s p imm := by
  cases taken with
  | true => exact ⟨_, rfl, rfl, fun _ => s.goto_pc_toNat _, fun hp => absurd (h.1 rfl) hp⟩
  | false => exact ⟨_, rfl, s.advance_onlyPc 4, fun hp => absurd (h.2 hp) Bool.false_ne_true, fun _ => s.advance_past 4⟩

/-- Settles O34: each branch tests its condition. -/
theorem conditionalBranches : Obligations.ConditionalBranches := by
  intro rs1 rs2 imm s
  refine ⟨?beq, ?bne, ?blt, ?bge, ?bltu, ?bgeu⟩
  case beq => exact branchIf_branches beq_iff_eq imm s
  case bne => exact branchIf_branches bne_iff_ne imm s
  case blt | bge | bltu | bgeu => exact branchIf_branches decide_eq_true_iff imm s

/-! ## The FP conversions (rules R360, R574 to R582) -/

/-- An integer result, sign-extended to XLEN, under the rounding mode that `rm` selects. -/
theorem legally_rounded_retire_extend_gives {s : State} {ok : Bool} (hok : ok = true) {rm : Rm} {m : RoundMode}
    (hm : Rounds s rm m) (i : Instr) (rd : BitVec 5) {w : Nat} (r : RoundMode → Fp.Res w) :
    GivesXFlags (legally ok i s (rounded rm i s fun m => s.retireXFlags rd (Fp.extend s.cfg.xbits (r m)))) s rd
      ((r m).1.signExtend _) (r m).2 := by
  rw [legally_rounded hm hok]
  exact s.retireXFlags_sets rd _

/-- Settles O31: each conversion retires its rounded result, the 64-bit ones where XLEN is 64. -/
theorem fpConversions : Obligations.FpConversions := by
  intro f g rm m rd rs1 s a b hfmt hm ha hb
  subst ha hb
  have hok : fmtFits s f = true := decide_eq_true hfmt
  refine ⟨?toW, ?toWu, ?ofW, ?ofWu, fun hx => ?doublewords, fun hg hne => ?formats⟩
  case toW => exact legally_rounded_retire_extend_gives hok hm _ rd fun m => s.num.toInt f 32 true m _
  case toWu => exact legally_rounded_retire_extend_gives hok hm _ rd fun m => s.num.toInt f 32 false m _
  case ofW => exact legally_rounded_retireF_gives hok hm _ rd fun m => s.num.ofInt f 32 true m _
  case ofWu => exact legally_rounded_retireF_gives hok hm _ rd fun m => s.num.ofInt f 32 false m _
  case doublewords =>
    have hok64 : (fmtFits s f && s.cfg.xlen == .rv64) = true := by rw [hok, hx]; rfl
    refine ⟨?toL, ?toLu, ?ofL, ?ofLu⟩
    case toL => exact legally_rounded_retire_extend_gives hok64 hm _ rd fun m => s.num.toInt f 64 true m _
    case toLu => exact legally_rounded_retire_extend_gives hok64 hm _ rd fun m => s.num.toInt f 64 false m _
    case ofL => exact legally_rounded_retireF_gives hok64 hm _ rd fun m => s.num.ofInt f 64 true m _
    case ofLu => exact legally_rounded_retireF_gives hok64 hm _ rd fun m => s.num.ofInt f 64 false m _
  case formats =>
    have hok2 : (fmtFits s f && fmtFits s g && g != f) = true := by
      rw [hok, show fmtFits s g = true from decide_eq_true hg, bne_iff_ne.2 hne]; rfl
    exact legally_rounded_retireF_gives hok2 hm _ rd fun m => s.num.cvt f g m _

/-! ## Environment calls and trap return (rules R361 to R363, R381, R383, R390) -/

/-- Settles O36: both raise their exception from the state before them. -/
theorem environmentCalls : Obligations.EnvironmentCalls := by
  refine ⟨⟨rfl, rfl, rfl, rfl, rfl, rfl, rfl, rfl, rfl⟩, fun s info hinfo => ?_⟩
  have hecall : Raises (exec .ecall s) s .environmentCall info := by
    obtain rfl : info = ecallInfo s := hinfo
    exact raise_raises ..
  have hebreak : Raises (exec .ebreak s) s .breakpoint s.pc.toNat := raise_raises ..
  exact ⟨fun hmmode => ⟨hecall.2 hmmode, hebreak.2 hmmode⟩, fun hstop => ⟨hecall.1 hstop, hebreak.1 hstop⟩⟩

theorem State.trapReturn_eq (s : State) : s.trapReturn =
    { s with pc := BitVec.ofNat 64 (s.mepc.toNat / 2 * 2), mie := s.mpie, mpie := true } := by
  have hpc : s.mepcValue = BitVec.ofNat 64 (s.mepc.toNat / 2 * 2) := clear_low s.mepc 1
  rw [State.trapReturn, hpc]
  rfl

/-- Settles O37: MRET is the trap return where the machine has traps. -/
theorem trapReturn : Obligations.TrapReturn := by
  refine fun s => ⟨fun hmmode => ⟨_, ?_, s.trapReturn_eq⟩, fun hstop => ?_⟩
  · exact legally_of_legal (by rw [hmmode]; rfl) ..
  · exact legally_illegal (by rw [hstop]; rfl) ..

/-! ## CSR accesses (rules R368 to R374) -/

@[simp] theorem State.csrPut_pc (s : State) (c : Csr) (v : Nat) : (s.csrPut c v).pc = s.pc := by cases c <;> rfl

@[simp] theorem State.csrPut_xregs (s : State) (c : Csr) (v : Nat) : (s.csrPut c v).xregs = s.xregs := by
  cases c <;> rfl

/-- A CSR write changes the CSR's implemented bits alone. -/
theorem State.csrPut_written (s : State) (c : Csr) (v : Nat) (hv : v < 2 ^ 64) : CsrWritten s (s.csrPut c v) c v := by
  cases c with
  | mepc =>
    have hclear : BitVec.ofNat 64 v &&& ~~~1#64 = BitVec.ofNat 64 (v / 2 * 2) := by
      rw [show BitVec.ofNat 64 v &&& ~~~1#64 = _ from clear_low _ 1, BitVec.toNat_ofNat, Nat.mod_eq_of_lt hv, pow_one]
    rw [State.csrPut, State.setMepc, hclear]
    rfl
  | _ => rfl

/-- What a CSR write has changed stays so while an integer register and the pc are written. -/
theorem CsrWritten.trans_onlyX {s t u : State} {c : Csr} {v r : Nat} (h : CsrWritten s t c v) (hu : OnlyX t u r) :
    CsrWritten s u c v := by
  obtain ⟨hframe, -⟩ := hu
  cases c <;> (rw [CsrWritten] at h ⊢; rw [hframe, h])

theorem csrLegal_of_takes {s : State} {c : Csr} {v : Nat} (h : CsrTakes s c v) : csrLegal s.cfg c v = true := by
  obtain ⟨hvl, hvstart⟩ := h
  cases c with
  | vl => exact decide_eq_true (hvl rfl)
  | vstart => exact decide_eq_true (hvstart rfl)
  | _ => rfl

/-- Retiring an integer result, at any name of the width XLEN. -/
theorem State.retireX_sets_of_width {u : State} {w : Nat} (hw : u.cfg.xbits = w) (rd : BitVec 5) (v : BitVec w) :
    ∃ t, u.retireX w rd v = .next t ∧ t.getX w rd.toNat = (if rd = 0#5 then 0 else v) ∧ PastPc u t 4 ∧
      OnlyX u t rd.toNat := by
  subst hw
  exact u.retireX_sets rd v

section
variable {s : State} {a : BitVec 12} {c : Csr} (hcsr : csrAt s.cfg a = some c) (rd : BitVec 5)
include hcsr

/-- An access without a write reads the CSR. -/
theorem csrAccess_none_gives : GivesX (csrAccess rd a none s) s rd (BitVec.ofNat _ (s.csrGet c)) := by
  simp only [csrAccess, hcsr]
  exact s.retireX_sets rd _

/-- An access with a write of a value that the CSR takes. -/
theorem csrAccess_some_gives (f : (w : Nat) → BitVec w → BitVec w) {new : BitVec s.cfg.xbits}
    (hnew : new = f _ (BitVec.ofNat _ (s.csrGet c))) (htakes : CsrTakes s c new.toNat) :
    GivesCsr (csrAccess rd a (some f) s) s rd c new := by
  have hrun : csrAccess rd a (some f) s =
      (s.csrPut c new.toNat).retireX s.cfg.xbits rd (BitVec.ofNat _ (s.csrGet c)) := by
    simp only [csrAccess, hcsr, ← hnew, csrLegal_of_takes htakes, if_true]
  have hcfg := s.csrPut_cfg c new.toNat
  have hwidth : (s.csrPut c new.toNat).cfg.xbits = s.cfg.xbits := congrArg Config.xbits hcfg
  have hrange : new.toNat < 2 ^ 64 := lt_of_lt_of_le new.isLt (Nat.pow_le_pow_right (by decide) (xbits_le _))
  obtain ⟨t, ht, hrd, hpast, honly⟩ := State.retireX_sets_of_width hwidth rd (BitVec.ofNat s.cfg.xbits (s.csrGet c))
  refine ⟨t, hrun.trans ht, (s.csrPut_written c _ hrange).trans_onlyX honly, hrd, fun q hq => ?_, ?_⟩
  · rw [← hwidth, honly.2 q hq]
    exact State.getX_congr s _ hcfg (s.csrPut_xregs ..) ..
  · rwa [PastPc, hwidth, State.csrPut_pc] at hpast

end

/-- Settles O39: the six instructions are one CSR access, which writes unless the source field of a read-modify-write form
is 0. -/
theorem csrAccesses : Obligations.CsrAccess := by
  intro rd r a c s old new hcsr hold htakes
  subst hold
  have hwrite (f : (w : Nat) → BitVec w → BitVec w) (hnew : new = f _ (BitVec.ofNat _ (s.csrGet c))) :
      GivesCsr (csrAccess rd a (some f) s) s rd c new := csrAccess_some_gives hcsr rd f hnew htakes
  refine ⟨fun i hi => ?reads, fun hnew => ?csrrw, fun hnew hr => ?csrrs, fun hnew hr => ?csrrc, fun hnew => ?csrrwi,
    fun hnew hr => ?csrrsi, fun hnew hr => ?csrrci⟩
  case reads => fin_cases hi <;> exact csrAccess_none_gives hcsr rd
  case csrrw => exact hwrite (fun w _ => s.getX w r.toNat) hnew
  case csrrs => exact exec_csrrs_of_ne hr rd a s ▸ hwrite _ hnew
  case csrrc => exact exec_csrrc_of_ne hr rd a s ▸ hwrite _ hnew
  case csrrwi => exact hwrite (fun w _ => BitVec.ofNat w r.toNat) (by rw [hnew, BitVec.ofNat_toNat])
  case csrrsi => exact exec_csrrsi_of_ne hr rd a s ▸ hwrite _ (by rw [hnew, BitVec.ofNat_toNat])
  case csrrci => exact exec_csrrci_of_ne hr rd a s ▸ hwrite _ (by rw [hnew, BitVec.ofNat_toNat])

end Sys2Proof.Machine
end

section
/-! PROOFS. VL and Vstart and the unprefixed instructions (rules R330, R349): each shared form does the same under other
values of VL and Vstart, so an instruction that is one of these forms does too. -/

namespace Sys2Proof.Machine

section
variable {v k : Nat} {s : State}

/-! ## What the forms read and write -/

@[simp] theorem State.withVector_cfg : (s.withVector v k).cfg = s.cfg := rfl

@[simp] theorem State.withVector_num : (s.withVector v k).num = s.num := rfl

@[simp] theorem State.getX_withVector (w r : Nat) : (s.withVector v k).getX w r = s.getX w r :=
  ((withVector_asideOfChecks v k).same s).getX ..

@[simp] theorem State.getF_withVector (w r : Nat) : (s.withVector v k).getF w r = s.getF w r :=
  ((withVector_asideOfChecks v k).same s).elemGet ..

@[simp] theorem State.fpArg_withVector (f : Fmt) (r : BitVec 5) : (s.withVector v k).fpArg f r = s.fpArg f r :=
  congrArg (unbox f) (State.getF_withVector ..)

theorem State.elemPut_withVector (f : RegFile) (n i w : Nat) (x : BitVec w) :
    (s.withVector v k).elemPut f n i w x = (s.elemPut f n i w x).withVector v k := by
  have h := (withVector_asideOfChecks v k).toAside
  rw [State.elemPut, (h.same s).elemByte, h.setRegBytes]
  rfl

/-! ## The forms -/

theorem follows_next {t u : State} (h : u = t.withVector v k) : Follows v k (.next t) (.next u) := by
  subst h
  exact ⟨fun _ ht => Host.Outcome.next.inj ht ▸ rfl⟩

theorem follows_retireX {w : Nat} (rd : BitVec 5) {x y : BitVec w} (h : y = x) :
    Follows v k (s.retireX w rd x) ((s.withVector v k).retireX w rd y) := by
  subst h
  exact follows_next (congrArg (State.advance · 4) (State.elemPut_withVector ..))

theorem follows_retireF {w : Nat} (rd : BitVec 5) {x y : Fp.Res w} (h : y = x) :
    Follows v k (s.retireF rd x) ((s.withVector v k).retireF rd y) := by
  subst h
  exact follows_next (congrArg (fun u => (State.orFlags u y.2).advance 4) (State.elemPut_withVector ..))

theorem follows_retireXFlags (rd : BitVec 5) {x y : Fp.Res s.cfg.xbits} (h : y = x) :
    Follows v k (s.retireXFlags rd x) ((s.withVector v k).retireXFlags rd y) := by
  subst h
  exact follows_next (congrArg (fun u => (State.orFlags u y.2).advance 4) (State.elemPut_withVector ..))

theorem follows_baseR (f : (w : Nat) → BitVec w → BitVec w → BitVec w) (rd rs1 rs2 : BitVec 5) :
    Follows v k (baseR f rd rs1 rs2 s) (baseR f rd rs1 rs2 (s.withVector v k)) :=
  follows_retireX rd (by simp)

theorem follows_baseI (f : (w : Nat) → BitVec w → BitVec w → BitVec w) (rd rs1 : BitVec 5) (imm : BitVec 12) :
    Follows v k (baseI f rd rs1 imm s) (baseI f rd rs1 imm (s.withVector v k)) :=
  follows_retireX rd (by simp)

theorem follows_baseShift (g : (w : Nat) → Nat → BitVec w → BitVec w) (rd rs1 : BitVec 5) (shamt : BitVec 6) :
    Follows v k (baseShift g rd rs1 shamt s) (baseShift g rd rs1 shamt (s.withVector v k)) :=
  follows_retireX rd (by simp)

theorem follows_baseShiftWord (g : Nat → BitVec 32 → BitVec 32) (rd rs1 shamt : BitVec 5) :
    Follows v k (baseShiftWord g rd rs1 shamt s) (baseShiftWord g rd rs1 shamt (s.withVector v k)) :=
  follows_retireX rd (by simp)

@[simp] theorem baseAddr_withVector (w : Nat) (rs1 : BitVec 5) (imm : BitVec 12) :
    baseAddr w rs1 imm (s.withVector v k) = baseAddr w rs1 imm s := by
  rw [baseAddr, State.getX_withVector]
  rfl

theorem follows_baseLoad {w : Nat} {f g : BitVec w → State} (h : ∀ x, g x = (f x).withVector v k) (rs1 : BitVec 5)
    (imm : BitVec 12) : Follows v k (baseLoad w rs1 imm s f) (baseLoad w rs1 imm (s.withVector v k) g) := by
  have haside := withVector_asideOfChecks v k
  simp only [baseLoad, State.withVector_cfg, baseAddr_withVector, haside.checkAccess, haside.memGet]
  split
  · exact follows_raise ..
  · exact follows_next (congrArg (State.advance · 4) (h _))

/-- A load writes its value, extended or boxed, to one register. -/
theorem follows_loadReg (f : RegFile) {w n : Nat} (g : BitVec w → BitVec n) (rd rs1 : BitVec 5) (imm : BitVec 12) :
    Follows v k (baseLoad w rs1 imm s fun x => s.elemPut f rd.toNat 0 n (g x))
      (baseLoad w rs1 imm (s.withVector v k) fun x => (s.withVector v k).elemPut f rd.toNat 0 n (g x)) :=
  follows_baseLoad (fun _ => State.elemPut_withVector ..) ..

theorem follows_baseStore {w : Nat} (rs1 : BitVec 5) (imm : BitVec 12) {x y : BitVec w} (h : y = x) :
    Follows v k (baseStore w rs1 imm x s) (baseStore w rs1 imm y (s.withVector v k)) := by
  have haside := withVector_asideOfChecks v k
  subst h
  simp only [baseStore, State.withVector_cfg, baseAddr_withVector, haside.checkAccess, haside.hitsText, haside.memPut]
  split
  · exact follows_raise ..
  · split
    · exact ⟨fun _ ht => nomatch ht⟩
    · exact follows_next rfl

theorem follows_storeX (w : Nat) (rs2 rs1 : BitVec 5) (imm : BitVec 12) :
    Follows v k (storeX w rs2 rs1 imm s) (storeX w rs2 rs1 imm (s.withVector v k)) :=
  follows_baseStore rs1 imm (by simp)

theorem follows_storeF (w : Nat) (rs2 rs1 : BitVec 5) (imm : BitVec 12) :
    Follows v k (storeF w rs2 rs1 imm s) (storeF w rs2 rs1 imm (s.withVector v k)) :=
  follows_baseStore rs1 imm (by simp)

theorem follows_branchIf {taken taken' : Bool} (h : taken' = taken) (imm : BitVec 12) :
    Follows v k (branchIf taken imm s) (branchIf taken' imm (s.withVector v k)) := by
  subst h
  cases taken' <;> exact follows_next rfl

/-- A jump: the link value, then the pc. -/
theorem follows_jump {w : Nat} (rd : BitVec 5) (link : BitVec w) {x y : BitVec w} (h : y = x) :
    Follows v k (.next ((s.putX w rd.toNat link).goto w x))
      (.next (((s.withVector v k).putX w rd.toNat link).goto w y)) := by
  subst h
  exact follows_next (congrArg (State.goto · w y) (State.elemPut_withVector ..))

/-! ## Every unprefixed instruction -/

/-- An unprefixed instruction other than SETVL and the CSR ones, by its form (rule R330). -/
theorem exec_follows_of_unprefixed {i : Instr} (hpre : ¬Prefixed i) (hsetvl : ¬SetvlInstr i) (hcsr : ¬CsrInstr i) :
    Follows v k (exec i s) (exec i (s.withVector v k)) := by
  cases i with
  | lui | auipc => exact follows_retireX _ rfl
  | addi | slti | sltiu | xori | ori | andi => exact follows_baseI ..
  | add | sub | sll | slt | sltu | xor | srl | sra | or | and => exact follows_baseR ..
  | slli | srli | srai => exact (follows_baseShift ..).legally ..
  | addiw => exact (follows_baseI ..).legally ..
  | slliw | srliw | sraiw => exact (follows_baseShiftWord ..).legally ..
  | addw | subw | sllw | srlw | sraw | mul | mulh | mulhsu | mulhu | div | divu | rem | remu | mulw | divw | divuw
  | remw | remuw => exact (follows_baseR ..).legally ..
  | lb | lh | lw | lbu | lhu => exact follows_loadReg .x _ ..
  | ld | lwu => exact (follows_loadReg .x _ ..).legally ..
  | flh | flw | fld | flq => exact (follows_loadReg .fp _ ..).legally ..
  | sb | sh | sw => exact follows_storeX ..
  | sd => exact (follows_storeX ..).legally ..
  | fsh | fsw | fsd | fsq => exact (follows_storeF ..).legally ..
  | faddFmt | fsubFmt | fmulFmt | fdivFmt | fsqrtFmt | fcvtFmtW | fcvtFmtWu | fcvtFmtL | fcvtFmtLu | fcvtFmtFmt
  | fmaddFmt | fmsubFmt | fnmsubFmt | fnmaddFmt =>
    exact (Follows.rounded (fun _ => follows_retireF _ (by simp)) ..).legally ..
  | fcvtWFmt | fcvtWuFmt | fcvtLFmt | fcvtLuFmt =>
    exact (Follows.rounded (fun _ => follows_retireXFlags _ (by simp)) ..).legally ..
  | fsgnjFmt | fsgnjnFmt | fsgnjxFmt | fminFmt | fmaxFmt | fmvFmtX => exact (follows_retireF _ (by simp)).legally ..
  | feqFmt | fltFmt | fleFmt | fmvXFmt | fclassFmt => exact (follows_retireXFlags _ (by simp)).legally ..
  | jal => exact follows_jump _ _ rfl
  | jalr => exact follows_jump _ _ (by rw [State.getX_withVector]; rfl)
  | beq | bne | blt | bge | bltu | bgeu =>
    exact follows_branchIf (by rw [State.getX_withVector, State.getX_withVector]; rfl) _
  | fence | fenceI => exact follows_next rfl
  | ecall | ebreak => exact follows_raise ..
  | mret => exact (follows_next rfl).legally ..
  | setvl => exact absurd ⟨_, _, _, rfl⟩ hsetvl
  | csrrw | csrrs | csrrc | csrrwi | csrrsi | csrrci => exact absurd (by simp [CsrInstr]) hcsr
  | _ => exact absurd rfl hpre

end

/-- Settles O58: by the forms, each the same whatever VL and Vstart are. -/
theorem unprefixedIgnoreVector : Obligations.UnprefixedIgnoreVector := by
  intro i s t v k hpre hsetvl hcsr hexec
  exact (exec_follows_of_unprefixed hpre hsetvl hcsr).next t hexec

end Sys2Proof.Machine
end

section
/-! PROOFS. The unprefixed integer computations (rules R500 to R530): each retires one value for x[rd], the word
instructions where XLEN is 64 and the immediate shifts where the amount is below XLEN. The word forms rest on the low 32
bits of a sum or difference being those of the operands' low words, and on the shift amount being 5 bits. -/

namespace Sys2Proof.Machine

/-! ## Low words (rule R500) -/

theorem setWidth_sub_of_le {n w : Nat} (h : n ≤ w) (a b : BitVec w) :
    (a - b).setWidth n = a.setWidth n - b.setWidth n := by
  rw [BitVec.sub_eq_add_neg, BitVec.setWidth_add _ _ h, BitVec.setWidth_neg_of_le h, ← BitVec.sub_eq_add_neg]

/-- The shift amount of a word instruction is what the register holds modulo 32 (rules R193, R528 to R530). -/
theorem Alu.amount_setWidth_word {w : Nat} (b : BitVec w) : Alu.amount (b.setWidth 32) = b.toNat % 32 := by
  rw [Alu.amount, BitVec.toNat_setWidth, Nat.mod_mod_of_dvd _ (by decide)]

/-- XLEN is at least 32. -/
theorem le_xbits (c : Config) : 32 ≤ c.xbits := by
  unfold Config.xbits XLen.bits; cases c.xlen <;> decide

/-! ## How a computation retires (rules R333, R500) -/

section
variable {s : State} {u v : BitVec s.cfg.xbits}

/-- A value for x[rd], told by a formula `v`. -/
theorem retireX_givesX (rd : BitVec 5) (h : u = v) : GivesX (s.retireX s.cfg.xbits rd u) s rd v := by
  subst h
  exact s.retireX_sets rd u

/-- A value for x[rd], of an instruction that the machine has. -/
theorem legally_retireX_givesX {ok : Bool} (hok : ok = true) (i : Instr) (rd : BitVec 5) (h : u = v) :
    GivesX (legally ok i s (s.retireX s.cfg.xbits rd u)) s rd v := by
  rw [legally_of_legal hok]
  exact retireX_givesX rd h

end

/-! ## The instructions -/

/-- Settles O16: each instruction retires its formula; the comparisons give a bit. -/
theorem immediateArithmetic : Obligations.ImmediateArithmetic := by
  intro rd rs1 imm up s
  refine ⟨?lui, ?auipc, ?addi, ?slti, ?sltiu, ?xori, ?ori, ?andi⟩
  case lui | auipc | addi | xori | ori | andi => exact retireX_givesX rd rfl
  case slti => exact retireX_givesX rd (Alu.slt_eq ..)
  case sltiu => exact retireX_givesX rd (Alu.sltu_eq ..)

/-- Settles O17: the machine has the shift where the amount is below XLEN. -/
theorem immediateShifts : Obligations.ImmediateShifts := by
  intro rd rs1 sh s
  refine ⟨fun hlt => ⟨?slli, ?srli, ?srai⟩, fun hle => ⟨?slliLong, ?srliLong, ?sraiLong⟩⟩
  case slli | srli | srai => exact legally_retireX_givesX (decide_eq_true hlt) _ rd rfl
  case slliLong | srliLong | sraiLong => exact legally_illegal (decide_eq_false (not_lt.2 hle)) ..

/-- Settles O18: each instruction retires its formula; the comparisons give a bit. -/
theorem registerArithmetic : Obligations.RegisterArithmetic := by
  intro rd rs1 rs2 s
  refine ⟨?add, ?sub, ?sll, ?slt, ?sltu, ?xor, ?srl, ?sra, ?or, ?and⟩
  case add | sub | sll | xor | srl | sra | or | and => exact retireX_givesX rd rfl
  case slt => exact retireX_givesX rd (Alu.slt_eq ..)
  case sltu => exact retireX_givesX rd (Alu.sltu_eq ..)

/-- Settles O19: the 32-bit function of the low words is the formula of the statement. -/
theorem wordArithmetic : Obligations.WordArithmetic := by
  intro rd rs1 rs2 sh imm s hx
  have hok : (s.cfg.xlen == .rv64) = true := beq_iff_eq.2 hx
  have hle : 32 ≤ s.cfg.xbits := le_xbits s.cfg
  have hamount := Alu.amount_setWidth_word (s.xr rs2)
  refine ⟨?addiw, ?slliw, ?srliw, ?sraiw, ?addw, ?subw, ?sllw, ?srlw, ?sraw⟩
  case addiw =>
    exact legally_retireX_givesX hok _ rd (congrArg (BitVec.signExtend _) (BitVec.setWidth_add _ _ hle).symm)
  case slliw | srliw | sraiw => exact legally_retireX_givesX hok _ rd rfl
  case addw => exact legally_baseR_word_givesX hok _ rd (BitVec.setWidth_add _ _ hle).symm
  case subw => exact legally_baseR_word_givesX hok _ rd (setWidth_sub_of_le hle _ _).symm
  case sllw => exact legally_baseR_word_givesX hok _ rd (congrArg (((s.xr rs1).setWidth 32) <<< ·) hamount)
  case srlw => exact legally_baseR_word_givesX hok _ rd (congrArg (((s.xr rs1).setWidth 32) >>> ·) hamount)
  case sraw => exact legally_baseR_word_givesX hok _ rd (congrArg ((s.xr rs1).setWidth 32).sshiftRight hamount)

end Sys2Proof.Machine
end

section
/-! PROOFS. The admitted integer loads and stores (rules R544 to R555): an admitted load retires the extended value read
as any integer result. And the return from a trap (rules R382, R390): `mepc` holds an even pc as it was. -/

namespace Sys2Proof.Machine

/-! ## Integer loads and stores (rules R544 to R555) -/

section
variable {s : State} {rs1 : BitVec 5} {imm : BitVec 12} {w : Nat}

theorem loadSigned_gives (h : CanLoad s (s.ea rs1 imm) w) (rd : BitVec 5) :
    GivesX (loadSigned w rd rs1 imm s) s rd ((s.memGet (s.ea rs1 imm) w).signExtend _) := by
  rw [loadSigned, baseLoad_of_canLoad h]
  exact s.retireX_sets rd _

theorem loadUnsigned_gives (h : CanLoad s (s.ea rs1 imm) w) (rd : BitVec 5) :
    GivesX (loadUnsigned w rd rs1 imm s) s rd ((s.memGet (s.ea rs1 imm) w).zeroExtend _) := by
  rw [loadUnsigned, baseLoad_of_canLoad h]
  exact s.retireX_sets rd _

/-- A zero-extending load that the machine has: the form of `ld` and `lwu`. -/
theorem legally_loadUnsigned_gives {ok : Bool} (hok : ok = true) (h : CanLoad s (s.ea rs1 imm) w) (i : Instr)
    (rd : BitVec 5) : GivesX (legally ok i s (loadUnsigned w rd rs1 imm s)) s rd
      ((s.memGet (s.ea rs1 imm) w).zeroExtend _) := by
  rw [legally_of_legal hok]
  exact loadUnsigned_gives h rd

/-- A store of the low bits of x[rs2]. -/
theorem storeX_gives (h : CanStore s (s.ea rs1 imm) w) (hw : w ≤ 128) (rs2 : BitVec 5) :
    GivesMem (storeX w rs2 rs1 imm s) s (s.ea rs1 imm) w ((s.xr rs2).setWidth w) :=
  baseStore_gives h hw _

/-- A store that the machine has: the form of `sd`. -/
theorem legally_storeX_gives {ok : Bool} (hok : ok = true) (h : CanStore s (s.ea rs1 imm) w) (hw : w ≤ 128) (i : Instr)
    (rs2 : BitVec 5) : GivesMem (legally ok i s (storeX w rs2 rs1 imm s)) s (s.ea rs1 imm) w
      ((s.xr rs2).setWidth w) := by
  rw [legally_of_legal hok]
  exact storeX_gives h hw rs2

end

/-- Settles O23: each load is one of the two shared forms at its width. -/
theorem integerLoads : Obligations.IntegerLoads := by
  intro rd rs1 imm s a ha
  subst ha
  refine ⟨fun h => ⟨?lb, ?lbu⟩, fun h => ⟨?lh, ?lhu⟩, fun h => ⟨?lw, fun hx => ?lwu⟩, fun h hx => ?ld⟩
  case lb | lh | lw => exact loadSigned_gives h rd
  case lbu | lhu => exact loadUnsigned_gives h rd
  case lwu | ld => exact legally_loadUnsigned_gives (beq_iff_eq.2 hx) h _ rd

/-- Settles O24: each store is the shared form at its width. -/
theorem integerStores : Obligations.IntegerStores := by
  intro rs2 rs1 imm s a ha
  subst ha
  refine ⟨fun h => ?sb, fun h => ?sh, fun h => ?sw, fun h hx => ?sd⟩
  case sb | sh | sw => exact storeX_gives h (by decide) rs2
  case sd => exact legally_storeX_gives (beq_iff_eq.2 hx) h (by decide) _ rs2

/-! ## A trap, then MRET (rules R382, R390) -/

/-- What MRET restores after trap entry at an even pc. -/
theorem enterTrap_trapReturn_pc_mie {s : State} (hpc : s.pc.toNat % 2 = 0) (e : Exc) (info : Nat) :
    (s.enterTrap e info).trapReturn.pc = s.pc ∧ (s.enterTrap e info).trapReturn.mie = s.mie := by
  have hback : (s.pc &&& ~~~1#64) &&& ~~~1#64 = s.pc := by rw [and_not_one_of_even hpc, and_not_one_of_even hpc]
  exact ⟨hback, rfl⟩

/-- Settles O38: the trap is entered, and MRET undoes what trap entry did to the pc and MIE and touches none of the
rest. -/
theorem trapThenReturn : Obligations.TrapThenReturn := by
  intro s t e info hmmode hpc hraise
  obtain rfl := raise_next hraise
  obtain ⟨hcfg, hx, hf, hmem, hvl, hvstart, hfflags, hfrm, -, -⟩ := s.enterTrap_keeps e info
  obtain ⟨hpcBack, hmieBack⟩ := enterTrap_trapReturn_pc_mie hpc e info
  have hmret : exec .mret (s.enterTrap e info) = .next (s.enterTrap e info).trapReturn :=
    legally_of_legal (by rw [hcfg, hmmode]; rfl) ..
  exact ⟨_, hmret, hpcBack, hmieBack, hx, hf, hmem, hvl, hvstart, hfflags, hfrm⟩

end Sys2Proof.Machine
end
